-- ==== Sys2Proof/Word.lean ====
section
/-!
DEFINITION. The words of the machine: bytes, 64-bit registers and addresses, 128-bit data
(`00_scope.md` R9: bit 0 is the least significant bit).
-/

namespace Sys2Proof

/-- One byte of memory or of an instruction. -/
abbrev Byte := BitVec 8

/-- A general register, the instruction pointer or a linear address (`10_state.md` R26, R27, R31). -/
abbrev Word := BitVec 64

/-- A doubleword, the unit of `AESKEYGENASSIST` (`10_state.md` R20). -/
abbrev Dword := BitVec 32

/-- A 128-bit operand: the low part of a vector register, or the `m128` in memory. -/
abbrev Xmm := BitVec 128

/-- `Byte(v, i) = v[8*i+7 : 8*i]` (R9). -/
def byteAt (v : Xmm) (i : Nat) : Byte := v.extractLsb' (8 * i) 8

/-- The 128-bit value whose lowest `n` bytes are `f 0 .. f (n - 1)`. -/
def packUpTo (f : Nat → Byte) : Nat → Xmm
  | 0 => 0
  | n + 1 => packUpTo f n ||| ((f n).setWidth 128 <<< (8 * n))

/-- The 128-bit value whose `Byte(., i)` is `f i` for `i = 0..15` (R9). -/
def packBytes (f : Nat → Byte) : Xmm := packUpTo f 16

/-- Doubleword `n` of a 128-bit value, `v[32*n+31 : 32*n]`. -/
def dwordAt (v : Xmm) (n : Nat) : Dword := v.extractLsb' (32 * n) 32

end Sys2Proof
end

