-- ==== Sys2Proof/Syntax.lean ====
section
/-!
DEFINITION. The instructions: one constructor per row of `spec/opcode_table.json` (`30_encoding.md` R60), with
their operands resolved (`00_scope.md` R6, Level O) and the facts of the encoding that the instruction rules
consult (prefixes, `VEX.L`, the stored `VEX.vvvv`, the displacement's size, from which the length follows).
-/

namespace Sys2Proof

/-- The operating mode. `mode64` and `mode32` are the two values of the parameter `MODE` (`00_scope.md` R7); the
others are the modes that the model refuses (R5, `93_implementation_defined.md` I16). -/
inductive Mode where
  | mode64
  | mode32
  | realAddress
  | virtual8086
  | systemManagement
  | protected16
  deriving DecidableEq, Repr

/-- The modes of which the spec speaks (R7). -/
def Mode.modelled : Mode → Bool
  | .mode64 => true
  | .mode32 => true
  | .realAddress => false
  | .virtual8086 => false
  | .systemManagement => false
  | .protected16 => false

/-- Segment names (`20_memory.md` R44). -/
inductive Seg where
  | cs | ds | es | fs | gs | ss
  deriving DecidableEq, Repr

/-- A prefix byte that may stand before the opcode (`30_encoding.md` R62, R63). -/
inductive Prefix where
  /-- a segment override -/
  | seg (s : Seg)
  /-- `67`, the address-size prefix -/
  | addrSize
  /-- `66`: mandatory before a legacy opcode, forbidden before a VEX prefix -/
  | opSize
  /-- `F0`, LOCK -/
  | lock
  /-- `F2` -/
  | repne
  /-- `F3` -/
  | rep
  deriving DecidableEq, Repr

/-- The two formats, and the argument of `Check` (`60_exceptions.md` R183). -/
inductive Form where
  | legacy
  | vex
  deriving DecidableEq, Repr

/-- A vector register number (`10_state.md` R20). -/
abbrev VNum := Fin 16

/-- A general register number (`10_state.md` R26). -/
abbrev GNum := Fin 16

/-- A displacement with the size it is encoded in (`30_encoding.md` R67). -/
inductive Disp where
  | none
  | d8 (d : BitVec 8)
  | d32 (d : BitVec 32)
  deriving DecidableEq, Repr

/-- A memory operand as the ModRM and SIB bytes select it (`30_encoding.md` R67, R68). -/
inductive Addr where
  /-- `[rip + disp32]`, Mode64 only -/
  | ripRel (d : BitVec 32)
  /-- `[disp32]` without a SIB byte, Mode32 only -/
  | abs (d : BitVec 32)
  /-- `[base + disp]` without a SIB byte -/
  | base (b : GNum) (d : Disp)
  /-- `[base + index * 2^scale + disp]` -/
  | sib (b : GNum) (index : Option GNum) (scale : BitVec 2) (d : Disp)
  /-- `[index * 2^scale + disp32]`, a SIB byte without a base -/
  | sibNoBase (index : Option GNum) (scale : BitVec 2) (d : BitVec 32)
  deriving DecidableEq, Repr

/-- The operand `xmm2/m128` or `xmm3/m128` (`00_scope.md` R12): a vector register or a 128-bit memory location. -/
inductive RM where
  | reg (j : VNum)
  | mem (a : Addr)
  deriving DecidableEq, Repr

/-- What a legacy encoding holds beside its operands (`30_encoding.md` R62 to R64): the prefix bytes in their order,
and whether a REX byte is present, with its ignored bit `W`. -/
structure LegEnc where
  prefixes : List Prefix
  rex : Option Bool
  deriving DecidableEq, Repr

/-- What a VEX encoding holds beside its operands (`30_encoding.md` R62, R71, R76): the prefix bytes in their order,
the low four bits of a REX byte that precedes the VEX prefix (forbidden), `VEX.W` (ignored) and `VEX.L`. -/
structure VexEnc where
  prefixes : List Prefix
  rexBefore : Option (BitVec 4)
  w : Bool
  l : Bool
  deriving DecidableEq, Repr

/-- The twelve instructions, in the order of `30_encoding.md` R60. `d` is the destination (`ModRM:reg`), `a` the
state operand from `VEX.vvvv`, `src` the operand from `ModRM:r/m`, `imm` the immediate byte, and `vvvv` the stored
field of the two VEX forms that reserve it (R78). -/
inductive Instr where
  | aesdec (e : LegEnc) (d : VNum) (src : RM)
  | vaesdec (e : VexEnc) (d a : VNum) (src : RM)
  | aesdeclast (e : LegEnc) (d : VNum) (src : RM)
  | vaesdeclast (e : VexEnc) (d a : VNum) (src : RM)
  | aesenc (e : LegEnc) (d : VNum) (src : RM)
  | vaesenc (e : VexEnc) (d a : VNum) (src : RM)
  | aesenclast (e : LegEnc) (d : VNum) (src : RM)
  | vaesenclast (e : VexEnc) (d a : VNum) (src : RM)
  | aesimc (e : LegEnc) (d : VNum) (src : RM)
  | vaesimc (e : VexEnc) (vvvv : BitVec 4) (d : VNum) (src : RM)
  | aeskeygenassist (e : LegEnc) (d : VNum) (src : RM) (imm : BitVec 8)
  | vaeskeygenassist (e : VexEnc) (vvvv : BitVec 4) (d : VNum) (src : RM) (imm : BitVec 8)
  deriving DecidableEq, Repr

end Sys2Proof
end

