-- ==== Sys2Proof/Config.lean ====
section
/-!
DEFINITION. What an implementation fixes (`00_scope.md` R7, `10_state.md` R29): the configuration, which no instruction
in scope writes, and the values that the spec leaves open.
-/

namespace Sys2Proof

/-- The kinds of access that `Translate` distinguishes (`20_memory.md` R47). -/
inductive AccessKind where
  | read
  | fetch
  deriving DecidableEq, Repr

/-- What a range of the parameter `Translate` says of its addresses (`20_memory.md` R45, R47, R48). The spec gives the error
code of a page fault no width: 32 bits are PRESUMED, the family's (log 4). -/
inductive RangeEffect where
  /-- mapped to consecutive byte locations from `base` -/
  | mapped (base : Nat)
  /-- the translation fails: `#PF` with this error code (R47, R191) -/
  | fails (code : BitVec 32)
  /-- a device or other non-memory (R48, `93_implementation_defined.md` I20) -/
  | device
  /-- beyond the segment limit, as `Translate` may report for a read in Mode32 (R45, D8) -/
  | beyondLimit
  deriving DecidableEq, Repr

/-- One range of linear addresses, `first .. last`, for one kind of access. -/
structure TransRange where
  kind : AccessKind
  first : Nat
  last : Nat
  effect : RangeEffect
  deriving DecidableEq, Repr

/-- What `Translate` answers for one address: the location of a byte, or why there is none (R47). -/
inductive Translated where
  | location (p : Nat)
  | pageFault (code : BitVec 32)
  | device
  deriving DecidableEq, Repr

/-- The parameter `SegBase` (`00_scope.md` R7, `10_state.md` R30). -/
structure SegBases where
  cs : Word
  ds : Word
  es : Word
  fs : Word
  gs : Word
  ss : Word
  deriving DecidableEq, Repr

/-- The program: its text, an immutable parameter of the step (`20_memory.md` R41), at consecutive linear addresses
from its start address. Its end address is the one just past its last byte (`70_reset_and_hazards.md` R219). -/
structure Program where
  start : Word
  text : List Byte
  deriving DecidableEq, Repr

/-- The configuration (`00_scope.md` R7; `10_state.md` R29: "the model holds them in its configuration"). -/
structure Config where
  /-- `MODE`, or a mode the model refuses -/
  mode : Mode
  /-- `VLMAX / 128 - 1`: how many 128-bit lanes a vector register has above its low 128 bits (R7, R8) -/
  upperLanes : Nat
  /-- `CPUID.(EAX=01H):ECX`, the bits that the part fixes (R29); its bit 27 mirrors `CR4.OSXSAVE` (R211) and is not stored
  here: `cpuidEcx` gives the register -/
  cpuid1Ecx : BitVec 32
  cr0 : Word
  cr4 : Word
  xcr0 : Word
  segBase : SegBases
  /-- `VA_BITS` -/
  vaBits : Nat
  /-- `HAS_VAES256` -/
  hasVaes256 : Bool
  /-- `Translate`: the first range that covers an address decides, and an address that none covers is its own
  location, the default of D8 -/
  translation : List TransRange
  program : Program
  deriving DecidableEq, Repr

/-- FREE VALUE (R45, I10): whether the canonical-address check comes before the alignment check. Applied to the state's
`freeCounter`. -/
opaque Config.canonicalFirst : Nat → Bool

/-- FREE VALUE (R47, I11): which of the failing bytes of an operand a page fault reports. Applied to the state's
`freeCounter`. -/
opaque Config.pageFaultPick : Nat → Nat

end Sys2Proof
end

