-- ==== Sys2Proof/WellFormed.lean ====
section
/-!
DEFINITION. Which instruction terms some byte string encodes in a given mode (`30_encoding.md` R62 to R74). A term
that fails a check stands for no encoding that the decoder admits.
-/

namespace Sys2Proof

/-- The kinds of prefix byte: all segment overrides are one kind (R63, "two segment overrides"). -/
def Prefix.kind : Prefix → Nat
  | .seg _ => 0
  | .addrSize => 1
  | .opSize => 2
  | .lock => 3
  | .repne => 4
  | .rep => 5

/-- No kind of prefix is repeated (R63, last row). -/
def prefixesOnce (ps : List Prefix) : Bool := decide (ps.map Prefix.kind).Nodup

/-- `67` is admitted in Mode64 only (R63). -/
def addrSizeOk (m : Mode) (ps : List Prefix) : Bool := m == .mode64 || !ps.contains .addrSize

/-- The raw low three bits of a register number (R66 to R68). -/
def low3 (n : Fin 16) : BitVec 3 := BitVec.ofNat 3 n.val

/-- The bit that a REX or VEX prefix adds: whether the number is 8 or more (R64, R71). -/
def high (n : Fin 16) : Bool := decide (8 ≤ n.val)

/-- Bit `X` of the SIB index; no index is `index = 100` with `X = 0` (R68). -/
def indexHigh : Option GNum → Bool
  | none => false
  | some i => high i

/-- `rsp` cannot be an index (R68). -/
def indexOk : Option GNum → Bool
  | none => true
  | some i => decide (i.val ≠ 4)

/-- A base whose raw bits are `101` needs a displacement (R67, R68). -/
def baseDispOk (b : GNum) : Disp → Bool
  | .none => decide (low3 b ≠ 5)
  | .d8 _ => true
  | .d32 _ => true

/-- Bit `X` that an operand needs. -/
def RM.extX : RM → Bool
  | .reg _ => false
  | .mem (.ripRel _) => false
  | .mem (.abs _) => false
  | .mem (.base _ _) => false
  | .mem (.sib _ i _ _) => indexHigh i
  | .mem (.sibNoBase i _ _) => indexHigh i

/-- Bit `B` that an operand needs. -/
def RM.extB : RM → Bool
  | .reg j => high j
  | .mem (.ripRel _) => false
  | .mem (.abs _) => false
  | .mem (.base b _) => high b
  | .mem (.sib b _ _ _) => high b
  | .mem (.sibNoBase _ _ _) => false

/-- The shapes of R67 and R68, and the mode of the two forms that `mod = 00, rm = 101` selects. -/
def Addr.wf (m : Mode) : Addr → Bool
  | .ripRel _ => m == .mode64
  | .abs _ => m == .mode32
  | .base b d => decide (low3 b ≠ 4) && baseDispOk b d
  | .sib b i _ d => indexOk i && baseDispOk b d
  | .sibNoBase i _ _ => indexOk i

/-- The operand is encodable; in Mode32 only numbers below 8 are (R66, R74). -/
def RM.wf (m : Mode) (src : RM) : Bool :=
  (match src with
    | .reg _ => true
    | .mem a => a.wf m) &&
  (m == .mode64 || (!src.extX && !src.extB))

/-- Legacy encodings (R62 to R65): `66` present, no `F2`/`F3`, no repetition; REX in Mode64 only, and present when an
extension bit is needed. -/
def LegEnc.wf (m : Mode) (e : LegEnc) (d : VNum) (src : RM) : Bool :=
  prefixesOnce e.prefixes && addrSizeOk m e.prefixes && e.prefixes.contains .opSize &&
  !e.prefixes.contains .repne && !e.prefixes.contains .rep &&
  (match e.rex with
    | none => !high d && !src.extX && !src.extB
    | some _ => m == .mode64)

/-- VEX encodings (R62, R71, R74, R76): no repetition, no register number above 7 in Mode32. -/
def VexEnc.wf (m : Mode) (e : VexEnc) (d : VNum) : Bool :=
  prefixesOnce e.prefixes && addrSizeOk m e.prefixes &&
  (e.rexBefore.isNone || m == .mode64) && (m == .mode64 || !high d)

/-- The instruction is one that the decoder of mode `m` can answer. -/
def Instr.wf (m : Mode) (i : Instr) : Bool :=
  m.modelled &&
  match i with
  | .aesdec e d src => e.wf m d src && src.wf m
  | .vaesdec e d a src => e.wf m d && src.wf m && (m == .mode64 || !high a)
  | .aesdeclast e d src => e.wf m d src && src.wf m
  | .vaesdeclast e d a src => e.wf m d && src.wf m && (m == .mode64 || !high a)
  | .aesenc e d src => e.wf m d src && src.wf m
  | .vaesenc e d a src => e.wf m d && src.wf m && (m == .mode64 || !high a)
  | .aesenclast e d src => e.wf m d src && src.wf m
  | .vaesenclast e d a src => e.wf m d && src.wf m && (m == .mode64 || !high a)
  | .aesimc e d src => e.wf m d src && src.wf m
  | .vaesimc e _ d src => e.wf m d && src.wf m
  | .aeskeygenassist e d src _ => e.wf m d src && src.wf m
  | .vaeskeygenassist e _ d src _ => e.wf m d && src.wf m

end Sys2Proof
end

