-- ==== Sys2Proof/Decode.lean ====
section
/-!
DEFINITION. The decoder of `30_encoding.md`, total on any bytes, and the encoder written from the same tables.
Strings that the spec gives the outcome `#UD` for an encoding cause (R76, R78, R79) decode to their instruction:
`Check` (`60_exceptions.md` R183) raises the fault. Strings that the spec refuses are rejected here by name.
-/

namespace Sys2Proof

/-- Why a byte string has no meaning in the model. -/
inductive DecodeError where
  /-- The string ended before the instruction did. -/
  | truncated
  /-- No row of R60 (R80). -/
  | notInScope
  /-- A repeated prefix (R63). -/
  | repeatedPrefix
  /-- REX is not the byte immediately before the opcode (R62, R63). -/
  | rexNotLast
  /-- `F2` or `F3` before a legacy opcode: another row of the opcode map (R63). -/
  | repeatOnLegacy
  /-- `67` in Mode32 selects 16-bit addressing (R44, R63). -/
  | addressSize16
  /-- `C4` in Mode32 without `P1[7:6] = 11` is the instruction LES (R74). -/
  | les
  /-- `P2[6] = 0` in Mode32 where `vvvv` is an operand (R74). -/
  | vvvvMode32
  /-- The mode is one the spec refuses (I16). -/
  | modeNotInScope
  deriving DecidableEq, Repr

/-- The six operations; each has a legacy and a VEX row in R60. -/
inductive AesOp where
  | dec | declast | enc | enclast | imc | keygen
  deriving DecidableEq, Repr

/-- The four opcodes whose `VEX.vvvv` is an operand (R72, `NDS`). -/
def AesOp.isRound : AesOp → Bool
  | .dec => true
  | .declast => true
  | .enc => true
  | .enclast => true
  | .imc => false
  | .keygen => false

/-- The opcode byte (R60). -/
def AesOp.opcode : AesOp → Byte
  | .dec => 0xDE
  | .declast => 0xDF
  | .enc => 0xDC
  | .enclast => 0xDD
  | .imc => 0xDB
  | .keygen => 0xDF

/-- The second escape byte of the legacy row: `38`, or `3A` for the key-generation row (R65). -/
def AesOp.escape : AesOp → Byte
  | .dec => 0x38
  | .declast => 0x38
  | .enc => 0x38
  | .enclast => 0x38
  | .imc => 0x38
  | .keygen => 0x3A

/-- The opcode map number `mmmmm` of the VEX row (R72). -/
def AesOp.vexMap : AesOp → BitVec 5
  | .dec => 0b00010
  | .declast => 0b00010
  | .enc => 0b00010
  | .enclast => 0b00010
  | .imc => 0b00010
  | .keygen => 0b00011

/-- The operation of opcode byte `op` in map 0F38. -/
def opIn38 (op : Byte) : Option AesOp :=
  if op = 0xDE then some .dec
  else if op = 0xDF then some .declast
  else if op = 0xDC then some .enc
  else if op = 0xDD then some .enclast
  else if op = 0xDB then some .imc
  else none

/-- The operation of opcode byte `op` in map 0F3A. -/
def opIn3A (op : Byte) : Option AesOp :=
  if op = 0xDF then some .keygen else none

/-- The operation that an escape byte and an opcode byte select (R60, R65). -/
def legacyOp (escape op : Byte) : Option AesOp :=
  if escape = 0x38 then opIn38 op
  else if escape = 0x3A then opIn3A op
  else none

/-- The operation that `mmmmm` and an opcode byte select (R60, R72). -/
def vexOp (mmmmm : BitVec 5) (op : Byte) : Option AesOp :=
  if mmmmm = 0b00010 then opIn38 op
  else if mmmmm = 0b00011 then opIn3A op
  else none

/-! ### Prefixes -/

/-- The prefix byte values (R62, R63). -/
def prefixByte : Prefix → Byte
  | .seg .es => 0x26
  | .seg .cs => 0x2E
  | .seg .ss => 0x36
  | .seg .ds => 0x3E
  | .seg .fs => 0x64
  | .seg .gs => 0x65
  | .addrSize => 0x67
  | .opSize => 0x66
  | .lock => 0xF0
  | .repne => 0xF2
  | .rep => 0xF3

/-- The prefix that a byte is, if it is one. -/
def prefixOf (b : Byte) : Option Prefix :=
  if b = 0x26 then some (.seg .es)
  else if b = 0x2E then some (.seg .cs)
  else if b = 0x36 then some (.seg .ss)
  else if b = 0x3E then some (.seg .ds)
  else if b = 0x64 then some (.seg .fs)
  else if b = 0x65 then some (.seg .gs)
  else if b = 0x67 then some .addrSize
  else if b = 0x66 then some .opSize
  else if b = 0xF0 then some .lock
  else if b = 0xF2 then some .repne
  else if b = 0xF3 then some .rep
  else none

/-- The leading prefix bytes of a string, and the rest of it. -/
def takePrefixes : List Byte → List Prefix × List Byte
  | [] => ([], [])
  | b :: bs =>
    match prefixOf b with
    | some p => (p :: (takePrefixes bs).1, (takePrefixes bs).2)
    | none => ([], b :: bs)

/-- A REX byte `40`..`4F` (R64). -/
def isRex (b : Byte) : Bool := b.extractLsb' 4 4 == 0x4#4

/-- In Mode64 a REX byte next in the string is taken off it, its low four bits `W R X B` kept; in Mode32 these
bytes are other instructions (R64). -/
def takeRex (m : Mode) : List Byte → Option (BitVec 4) × List Byte
  | [] => (none, [])
  | b :: bs => if m = .mode64 ∧ isRex b then (some (b.extractLsb' 0 4), bs) else (none, b :: bs)

/-! ### ModRM, SIB, displacement -/

/-- `f + 8 * ext` (R66 to R68). -/
def regNum (ext : Bool) (f : BitVec 3) : Fin 16 :=
  ⟨f.toNat + 8 * ext.toNat, by have := f.isLt; cases ext <;> simp <;> omega⟩

/-- Four bytes, the least significant first (`20_memory.md` R43). -/
def takeLe32 : List Byte → Option (BitVec 32 × List Byte)
  | b0 :: b1 :: b2 :: b3 :: bs => some (b3 ++ (b2 ++ (b1 ++ b0)), bs)
  | _ => none

/-- The displacement that `mod` asks for (R67). -/
def takeDisp (mod : BitVec 2) (bs : List Byte) : Option (Disp × List Byte) :=
  if mod = 0 then some (.none, bs)
  else if mod = 1 then
    match bs with
    | [] => none
    | b :: t => some (.d8 b, t)
  else
    match takeLe32 bs with
    | none => none
    | some (d, t) => some (.d32 d, t)

/-- The SIB byte and what follows it (R68). -/
def decodeSib (x b : Bool) (mod : BitVec 2) : List Byte → Except DecodeError (Addr × List Byte)
  | [] => .error .truncated
  | s :: t =>
    let scale := s.extractLsb' 6 2
    let index : Option GNum :=
      if s.extractLsb' 3 3 = 4#3 ∧ x = false then none else some (regNum x (s.extractLsb' 3 3))
    if s.extractLsb' 0 3 = 5#3 ∧ mod = 0 then
      match takeLe32 t with
      | none => .error .truncated
      | some (d, t') => .ok (.sibNoBase index scale d, t')
    else
      match takeDisp mod t with
      | none => .error .truncated
      | some (d, t') => .ok (.sib (regNum b (s.extractLsb' 0 3)) index scale d, t')

/-- The memory forms of ModRM (R67); the tests on `rm` are on the three raw bits. -/
def decodeMem (m : Mode) (x b : Bool) (mod : BitVec 2) (rm : BitVec 3) (t : List Byte) :
    Except DecodeError (Addr × List Byte) :=
  if rm = 4 then decodeSib x b mod t
  else if rm = 5 ∧ mod = 0 then
    match takeLe32 t with
    | none => .error .truncated
    | some (d, t') => .ok (if m = .mode64 then .ripRel d else .abs d, t')
  else
    match takeDisp mod t with
    | none => .error .truncated
    | some (d, t') => .ok (.base (regNum b rm) d, t')

/-- The ModRM byte and what follows it: the register operand, the `r/m` operand, the rest (R66). -/
def decodeModRM (m : Mode) (r x b : Bool) : List Byte → Except DecodeError (VNum × RM × List Byte)
  | [] => .error .truncated
  | mb :: t =>
    if mb.extractLsb' 6 2 = 3#2 then
      .ok (regNum r (mb.extractLsb' 3 3), .reg (regNum b (mb.extractLsb' 0 3)), t)
    else
      match decodeMem m x b (mb.extractLsb' 6 2) (mb.extractLsb' 0 3) t with
      | .error e => .error e
      | .ok (a, t') => .ok (regNum r (mb.extractLsb' 3 3), .mem a, t')

/-- The immediate byte, present for the two key-generation rows only (R69). -/
def takeImm (o : AesOp) (bs : List Byte) : Except DecodeError (Byte × List Byte) :=
  match o with
  | .dec => .ok (0, bs)
  | .declast => .ok (0, bs)
  | .enc => .ok (0, bs)
  | .enclast => .ok (0, bs)
  | .imc => .ok (0, bs)
  | .keygen =>
    match bs with
    | [] => .error .truncated
    | b :: t => .ok (b, t)

/-! ### The two formats -/

/-- The legacy row of an operation (R60). -/
def legacyInstrOf (o : AesOp) (e : LegEnc) (d : VNum) (src : RM) (imm : Byte) : Instr :=
  match o with
  | .dec => .aesdec e d src
  | .declast => .aesdeclast e d src
  | .enc => .aesenc e d src
  | .enclast => .aesenclast e d src
  | .imc => .aesimc e d src
  | .keygen => .aeskeygenassist e d src imm

/-- The VEX row of an operation (R60); `vvvv` is the field as stored, inverted where it is a register number (R71). -/
def vexInstrOf (o : AesOp) (e : VexEnc) (vvvv : BitVec 4) (d : VNum) (src : RM) (imm : Byte) : Instr :=
  match o with
  | .dec => .vaesdec e d ⟨(~~~vvvv).toNat, (~~~vvvv).isLt⟩ src
  | .declast => .vaesdeclast e d ⟨(~~~vvvv).toNat, (~~~vvvv).isLt⟩ src
  | .enc => .vaesenc e d ⟨(~~~vvvv).toNat, (~~~vvvv).isLt⟩ src
  | .enclast => .vaesenclast e d ⟨(~~~vvvv).toNat, (~~~vvvv).isLt⟩ src
  | .imc => .vaesimc e vvvv d src
  | .keygen => .vaeskeygenassist e vvvv d src imm

/-- ModRM and the rest of a legacy encoding, once the opcode is known. -/
def decodeLegacyTail (m : Mode) (ps : List Prefix) (rex : Option (BitVec 4)) (o : AesOp) (t : List Byte) :
    Except DecodeError (Instr × List Byte) :=
  let bits := rex.getD 0
  match decodeModRM m (bits.getLsbD 2) (bits.getLsbD 1) (bits.getLsbD 0) t with
  | .error e => .error e
  | .ok (d, src, t') =>
    match takeImm o t' with
    | .error e => .error e
    | .ok (imm, t'') => .ok (legacyInstrOf o ⟨ps, rex.map (·.getLsbD 3)⟩ d src imm, t'')

/-- A legacy encoding after its `0F` byte (R62, R65). -/
def decodeLegacy (m : Mode) (ps : List Prefix) (rex : Option (BitVec 4)) (t : List Byte) :
    Except DecodeError (Instr × List Byte) :=
  if ps.contains .repne || ps.contains .rep then .error .repeatOnLegacy
  else if !ps.contains .opSize then .error .notInScope
  else
    match t with
    | [] => .error .truncated
    | esc :: t1 =>
      if ¬ (esc = 0x38 ∨ esc = 0x3A) then .error .notInScope
      else
        match t1 with
        | [] => .error .truncated
        | op :: t2 =>
          match legacyOp esc op with
          | none => .error .notInScope
          | some o => decodeLegacyTail m ps rex o t2

/-- ModRM and the rest of a VEX encoding, once the opcode is known (R71, R74). -/
def decodeVexTail (m : Mode) (ps : List Prefix) (rex : Option (BitVec 4)) (o : AesOp) (p1 p2 : Byte) (t : List Byte) :
    Except DecodeError (Instr × List Byte) :=
  if m = .mode32 ∧ o.isRound = true ∧ p2.getLsbD 6 = false then .error .vvvvMode32
  else
    match decodeModRM m (!p1.getLsbD 7) (!p1.getLsbD 6) (decide (m = .mode64) && !p1.getLsbD 5) t with
    | .error e => .error e
    | .ok (d, src, t') =>
      match takeImm o t' with
      | .error e => .error e
      | .ok (imm, t'') =>
        .ok (vexInstrOf o ⟨ps, rex, p2.getLsbD 7, p2.getLsbD 2⟩ (p2.extractLsb' 3 4) d src imm, t'')

/-- A VEX encoding after its `C4` byte (R71 to R74). -/
def decodeVex (m : Mode) (ps : List Prefix) (rex : Option (BitVec 4)) (t : List Byte) :
    Except DecodeError (Instr × List Byte) :=
  match t with
  | [] => .error .truncated
  | p1 :: t1 =>
    if m = .mode32 ∧ p1.extractLsb' 6 2 ≠ 3#2 then .error .les
    else
      match t1 with
      | [] => .error .truncated
      | p2 :: t2 =>
        if p2.extractLsb' 0 2 ≠ 1#2 then .error .notInScope
        else
          match t2 with
          | [] => .error .truncated
          | op :: t3 =>
            match vexOp (p1.extractLsb' 0 5) op with
            | none => .error .notInScope
            | some o => decodeVexTail m ps rex o p1 p2 t3

/-- The opcode, after the prefixes and an optional REX byte (R62). -/
def decodeBody (m : Mode) (ps : List Prefix) (rex : Option (BitVec 4)) :
    List Byte → Except DecodeError (Instr × List Byte)
  | [] => .error .truncated
  | b :: t =>
    if b = 0x0F then decodeLegacy m ps rex t
    else if b = 0xC4 then decodeVex m ps rex t
    else if rex.isSome ∧ ((prefixOf b).isSome ∨ isRex b) then .error .rexNotLast
    else .error .notInScope

/-- THE DECODER (R62 to R80): the instruction that a byte string starts with, and the bytes after it. -/
def decode (m : Mode) (bs : List Byte) : Except DecodeError (Instr × List Byte) :=
  if !m.modelled then .error .modeNotInScope
  else if !prefixesOnce (takePrefixes bs).1 then .error .repeatedPrefix
  else if !addrSizeOk m (takePrefixes bs).1 then .error .addressSize16
  else
    decodeBody m (takePrefixes bs).1 (takeRex m (takePrefixes bs).2).1 (takeRex m (takePrefixes bs).2).2

/-! ### The encoder -/

/-- The four bytes of a disp32, the least significant first (`20_memory.md` R43). -/
def le32Bytes (d : BitVec 32) : List Byte :=
  [d.extractLsb' 0 8, d.extractLsb' 8 8, d.extractLsb' 16 8, d.extractLsb' 24 8]

/-- The displacement bytes (R67). -/
def Disp.bytes : Disp → List Byte
  | .none => []
  | .d8 d => [d]
  | .d32 d => le32Bytes d

/-- The `mod` field that announces a displacement (R67). -/
def Disp.mod : Disp → BitVec 2
  | .none => 0
  | .d8 _ => 1
  | .d32 _ => 2

/-- The ModRM byte (R66). -/
def modrmByte (mod : BitVec 2) (reg rm : BitVec 3) : Byte := mod ++ (reg ++ rm)

/-- The raw index field; no index is `100` (R68). -/
def indexField : Option GNum → BitVec 3
  | none => 4
  | some i => low3 i

/-- The SIB byte (R68). -/
def sibByte (scale : BitVec 2) (index base : BitVec 3) : Byte := scale ++ (index ++ base)

/-- ModRM, SIB and displacement bytes (R66 to R68). -/
def modrmBytes (d : VNum) : RM → List Byte
  | .reg j => [modrmByte 3 (low3 d) (low3 j)]
  | .mem (.ripRel disp) => modrmByte 0 (low3 d) 5 :: le32Bytes disp
  | .mem (.abs disp) => modrmByte 0 (low3 d) 5 :: le32Bytes disp
  | .mem (.base b disp) => modrmByte disp.mod (low3 d) (low3 b) :: disp.bytes
  | .mem (.sib b i scale disp) =>
    modrmByte disp.mod (low3 d) 4 :: sibByte scale (indexField i) (low3 b) :: disp.bytes
  | .mem (.sibNoBase i scale disp) =>
    modrmByte 0 (low3 d) 4 :: sibByte scale (indexField i) 5 :: le32Bytes disp

/-- The REX byte `0100 W R X B` (R64). -/
def rexByte (w r x b : Bool) : Byte :=
  0x4#4 ++ (BitVec.ofBool w ++ (BitVec.ofBool r ++ (BitVec.ofBool x ++ BitVec.ofBool b)))

/-- `P1 = ~R ~X ~B mmmmm` (R71). -/
def vexP1 (r x b : Bool) (mmmmm : BitVec 5) : Byte :=
  BitVec.ofBool (!r) ++ (BitVec.ofBool (!x) ++ (BitVec.ofBool (!b) ++ mmmmm))

/-- `P2 = W ~vvvv L pp` with `pp = 01`, the `66` of every VEX row (R71, R72). -/
def vexP2 (w : Bool) (vvvv : BitVec 4) (l : Bool) : Byte :=
  BitVec.ofBool w ++ (vvvv ++ (BitVec.ofBool l ++ 1#2))

/-- The immediate byte, where the row has one. -/
def immBytes (o : AesOp) (imm : Byte) : List Byte :=
  match o with
  | .dec => []
  | .declast => []
  | .enc => []
  | .enclast => []
  | .imc => []
  | .keygen => [imm]

/-- A legacy encoding (R62, LEG). -/
def encodeLegacy (o : AesOp) (e : LegEnc) (d : VNum) (src : RM) (imm : Byte) : List Byte :=
  e.prefixes.map prefixByte ++
  ((match e.rex with
    | none => []
    | some w => [rexByte w (high d) src.extX src.extB]) ++
  (0x0F :: o.escape :: o.opcode :: (modrmBytes d src ++ immBytes o imm)))

/-- A VEX encoding (R62, VEX3); `vvvv` is the field as stored. -/
def encodeVex (o : AesOp) (e : VexEnc) (vvvv : BitVec 4) (d : VNum) (src : RM) (imm : Byte) : List Byte :=
  e.prefixes.map prefixByte ++
  ((match e.rexBefore with
    | none => []
    | some bits => [0x4#4 ++ bits]) ++
  (0xC4 :: vexP1 (high d) src.extX src.extB o.vexMap :: vexP2 e.w vvvv e.l :: o.opcode ::
    (modrmBytes d src ++ immBytes o imm)))

/-- The stored `vvvv` field of a register number: its one's complement (R71). -/
def vvvvOf (a : VNum) : BitVec 4 := ~~~(BitVec.ofNat 4 a.val)

/-- THE ENCODER: the bytes of an instruction (R60, R62). -/
def encode : Instr → List Byte
  | .aesdec e d src => encodeLegacy .dec e d src 0
  | .vaesdec e d a src => encodeVex .dec e (vvvvOf a) d src 0
  | .aesdeclast e d src => encodeLegacy .declast e d src 0
  | .vaesdeclast e d a src => encodeVex .declast e (vvvvOf a) d src 0
  | .aesenc e d src => encodeLegacy .enc e d src 0
  | .vaesenc e d a src => encodeVex .enc e (vvvvOf a) d src 0
  | .aesenclast e d src => encodeLegacy .enclast e d src 0
  | .vaesenclast e d a src => encodeVex .enclast e (vvvvOf a) d src 0
  | .aesimc e d src => encodeLegacy .imc e d src 0
  | .vaesimc e vvvv d src => encodeVex .imc e vvvv d src 0
  | .aeskeygenassist e d src imm => encodeLegacy .keygen e d src imm
  | .vaeskeygenassist e vvvv d src imm => encodeVex .keygen e vvvv d src imm

/-! ### Lengths (R62): the `len` of every instruction rule -/

/-- Bytes of a displacement. -/
def Disp.size : Disp → Nat
  | .none => 0
  | .d8 _ => 1
  | .d32 _ => 4

/-- Bytes of ModRM, SIB and displacement (R67, R68). -/
def RM.size : RM → Nat
  | .reg _ => 1
  | .mem (.ripRel _) => 5
  | .mem (.abs _) => 5
  | .mem (.base _ d) => 1 + d.size
  | .mem (.sib _ _ _ d) => 2 + d.size
  | .mem (.sibNoBase _ _ _) => 6

/-- Length of a legacy encoding with `imms` immediate bytes. -/
def legacyLen (e : LegEnc) (src : RM) (imms : Nat) : Nat :=
  e.prefixes.length + e.rex.isSome.toNat + 3 + src.size + imms

/-- Length of a VEX encoding with `imms` immediate bytes. -/
def vexLen (e : VexEnc) (src : RM) (imms : Nat) : Nat :=
  e.prefixes.length + e.rexBefore.isSome.toNat + 4 + src.size + imms

/-- The encoded length of an instruction (R27, R62). -/
def Instr.len : Instr → Nat
  | .aesdec e _ src => legacyLen e src 0
  | .vaesdec e _ _ src => vexLen e src 0
  | .aesdeclast e _ src => legacyLen e src 0
  | .vaesdeclast e _ _ src => vexLen e src 0
  | .aesenc e _ src => legacyLen e src 0
  | .vaesenc e _ _ src => vexLen e src 0
  | .aesenclast e _ src => legacyLen e src 0
  | .vaesenclast e _ _ src => vexLen e src 0
  | .aesimc e _ src => legacyLen e src 0
  | .vaesimc e _ _ src => vexLen e src 0
  | .aeskeygenassist e _ src _ => legacyLen e src 1
  | .vaeskeygenassist e _ _ src _ => vexLen e src 1

/-! ### The host's table words -/

/-- `n` bytes of `w`, the least significant first. -/
def natBytes : Nat → Nat → List Byte
  | 0, _ => []
  | n + 1, w => BitVec.ofNat 8 w :: natBytes n (w / 256)

/-- The 15 bytes at which an instruction of `nbits` bits stands alone: its bytes in order, then zero bytes up to the
longest instruction (R62, R43). -/
def wordBytes (nbits w : Nat) : List Byte := natBytes 15 (w % 2 ^ nbits)

/-- The instruction the Mode64 decoder reads from an instruction whose bits are `w`. -/
def decodeTableWord (nbits w : Nat) : Option Instr :=
  match decode .mode64 (wordBytes nbits w) with
  | .ok (i, _) => some i
  | .error _ => none

end Sys2Proof
end

