-- ==== Sys2Proof/Machine/State.lean ====
section
/-!
DEFINITION. The machine's state (`10_state.md`), its faults (`60_exceptions.md` R182) and refusals, and the state
right after reset (`10_state.md` R33).
-/

namespace Sys2Proof.Machine

/-- A vector register of `VLMAX` bits (`10_state.md` R20): `xmm` is bits 127:0 and `upper` bits VLMAX-1:128, cut into
128-bit lanes, the lowest first (`VLMAX` is a multiple of 128, R7). -/
structure VReg where
  xmm : Xmm
  upper : List Xmm
  deriving DecidableEq, Repr

/-- Memory as a list of location and byte, in one canonical form (`Memory.wf`). -/
abbrev Memory := List Host.Cell

/-- The faults of R182, each with what the rule records: the address of the instruction and, for `#PF`, the error code
and the faulting linear address. All are terminal outcomes (R181). The spec gives the error code no width: 32 bits are
PRESUMED, the family's (log 4). -/
inductive Fault where
  /-- `#UD`: raised by `Check` (R184 to R186, R78, R79). Safe: the machine stops where the spec says it does. -/
  | invalidOpcode (ip : Word)
  /-- `#NM`: raised by `Check` when `CR0.TS = 1` (R187). Safe. -/
  | deviceNotAvailable (ip : Word)
  /-- `#SS(0)`: raised by the operand read through SS (R190). Safe. -/
  | stackFault (ip : Word)
  /-- `#GP(0)`: raised by the operand read (R189 a, b) and by the fetch of more than 15 bytes (R189 c). Safe. -/
  | generalProtection (ip : Word)
  /-- `#PF(code)`: raised by the operand read and by the fetch where `Translate` fails (R191). Safe; the reported address
  of an operand is a free value, that of a fetch a design choice (log 10). -/
  | pageFault (ip : Word) (code : BitVec 32) (addr : Word)
  deriving DecidableEq, Repr

/-- Where the model makes no statement. Every refusal is safe: no claim can be proved about what the processor does. -/
inductive Refusal where
  /-- An instruction without a meaning yet; raised by `exec` only. -/
  | notModelled (mnemonic : String)
  /-- A mode that the spec refuses (I16, D3); raised by the fetch and by `Check`. -/
  | modeNotInScope (m : Mode)
  /-- The bytes at `ip` are no instruction in scope (R80, R219 c); raised by the fetch. -/
  | undecodable (e : DecodeError)
  /-- `ip` is at the program's end address: the run is over, and this is its final state (R219 b); raised by the fetch. It
  comes before `placement`, by the model's choice (log 27). -/
  | endOfRun
  /-- `ip` is not an address of the program text (R41, R219 c); raised by the fetch. -/
  | outsideProgram
  /-- The program is placed within 15 bytes of 2^47 (Mode64) or 2^32 (Mode32): "the model refuses a program placed" there
  (R27, I18, D14); raised by the fetch. -/
  | placement
  /-- `VEX.L = 1` with a round opcode on a part that gives it a meaning (R79); raised by `Check`. -/
  | vaes256
  /-- An access that `Translate` maps to a device (R48, I20); raised by the operand read and by the fetch. -/
  | device (k : AccessKind) (addr : Word)
  deriving DecidableEq, Repr

/-- How a sub-operation of an instruction ends the instruction. -/
inductive Stop where
  | fault (f : Fault)
  | refuse (r : Refusal)
  deriving DecidableEq, Repr

/-- The whole machine, plain data. -/
structure State where
  /-- the configuration: no instruction writes it (R29) -/
  cfg : Config
  /-- the vector registers `V[0]` .. `V[15]` (R20) -/
  v : Vector VReg 16
  /-- the general registers `x[0]` .. `x[15]` (R26) -/
  x : Vector Word 16
  /-- the instruction pointer (R27) -/
  ip : Word
  /-- `RFLAGS`, which no instruction in scope reads or writes (R28) -/
  rflags : Word
  /-- `MXCSR`, which no instruction in scope reads or writes (R28) -/
  mxcsr : BitVec 32
  /-- memory: read, never written (R31, R40) -/
  mem : Memory
  /-- the fault record (R34, R181) -/
  faultRecord : Option Fault
  /-- THE MODEL'S OWN: the index of the next free value (log 21) -/
  freeCounter : Nat
  deriving DecidableEq, Repr

/-- The configuration of a processor right after reset: control registers and mode as in R33, parameters at the defaults
of R7, no program. `cpuid1Ecx` is DESIGN CHOICE (log 2). -/
def resetConfig : Config where
  mode := .realAddress
  upperLanes := 1
  cpuid1Ecx := 0x12000000
  cr0 := 0x60000010
  cr4 := 0
  xcr0 := 1
  segBase := { cs := 0xFFFF0000, ds := 0, es := 0, fs := 0, gs := 0, ss := 0 }
  vaBits := 48
  hasVaes256 := false
  translation := []
  program := { start := 0xFFF0, text := [] }

/-- The machine right after reset (R33, R34 for the fault record). `x[2]` (`edx`), `rflags` and `mxcsr` have no reset
value in the spec (log 3); `freeCounter` is the model's own (log 21). -/
def State.reset : State where
  cfg := resetConfig
  v := Vector.replicate 16 { xmm := 0, upper := [0] }
  x := Vector.replicate 16 0
  ip := 0xFFF0
  rflags := 0x2
  mxcsr := 0x1F80
  mem := []
  faultRecord := none
  freeCounter := 0

end Sys2Proof.Machine
end

