-- ==== Sys2Proof/Machine/Ops.lean ====
section
/-!
DEFINITION. The named operations over memory and registers, faults, the end of an instruction, and the enabling
sequence of `70_reset_and_hazards.md` R211.
-/

namespace Sys2Proof.Machine

/-! ### Memory -/

/-- What a byte of memory that nothing lists reads as. DESIGN CHOICE, unsafe (log 6): R34 says "any byte contents". -/
def unlistedByte : Byte := 0

/-- The byte at a location. -/
def Memory.read : Memory → Nat → Byte
  | [], _ => unlistedByte
  | c :: t, p => if c.1 = p then c.2 else Memory.read t p

/-- Set the byte at a location, keeping the canonical form. No instruction in scope uses it (R11, `MemWrite`): it builds
launch states. -/
def Memory.write : Memory → Nat → Byte → Memory
  | [], p, b => if b = unlistedByte then [] else [(p, b)]
  | c :: t, p, b =>
    if p < c.1 then (if b = unlistedByte then c :: t else (p, b) :: c :: t)
    else if p = c.1 then (if b = unlistedByte then t else (p, b) :: t)
    else c :: Memory.write t p b

/-- The canonical form: addresses strictly rising, no entry equal to what an unlisted byte reads as. -/
def Memory.wf : Memory → Bool
  | [] => true
  | c :: t => c.2 != unlistedByte && t.all (fun d => decide (c.1 < d.1)) && Memory.wf t

/-- Set consecutive bytes from a location (launch states only). -/
def Memory.writeBytes (m : Memory) (p : Nat) : List Byte → Memory
  | [] => m
  | b :: bs => Memory.writeBytes (m.write p b) (p + 1) bs

/-! ### Translation (`20_memory.md` R47) -/

/-- A range covers an address for a kind of access. -/
def covers (r : TransRange) (k : AccessKind) (a : Nat) : Bool :=
  decide (r.kind = k) && decide (r.first ≤ a) && decide (a ≤ r.last)

/-- `Translate` on a list of ranges: the first one that covers the address decides, a limit report apart; without
one the address is its own location (D8). -/
def translateIn : List TransRange → AccessKind → Nat → Translated
  | [], _, a => .location a
  | r :: rs, k, a =>
    if covers r k a then
      match r.effect with
      | .mapped base => .location (base + (a - r.first))
      | .fails code => .pageFault code
      | .device => .device
      | .beyondLimit => translateIn rs k a
    else translateIn rs k a

/-- `Translate(a, kind)` (R47). -/
def translate (c : Config) (k : AccessKind) (a : Word) : Translated := translateIn c.translation k a.toNat

/-- `Translate` reports a read of this address as beyond the segment limit (R45: Mode32 only). -/
def beyondLimit (c : Config) (a : Word) : Bool :=
  c.translation.any (fun r => covers r .read a.toNat && decide (r.effect = .beyondLimit))

/-- Linear addresses and `ip` have 64 bits in Mode64 and 32 bits in Mode32 (R27, R31, R44). -/
def wrapLinear (m : Mode) (a : Word) : Word :=
  match m with
  | .mode32 => (a.setWidth 32).setWidth 64
  | .mode64 => a
  | .realAddress => a
  | .virtual8086 => a
  | .systemManagement => a
  | .protected16 => a

/-- The byte that memory holds for a read of linear address `a` (R45 step 4). Where `a` has no location the read has
already stopped, and the value is not used. -/
def State.byteAtLinear (s : State) (a : Word) : Byte :=
  match translate s.cfg .read a with
  | .location p => s.mem.read p
  | .pageFault _ => unlistedByte
  | .device => unlistedByte

/-! ### Registers -/

/-- `V[i][127:0]`, the register the source calls `xmm<i>` (R11, R20). -/
def State.xmm (s : State) (i : VNum) : Xmm := (s.v.get i).xmm

/-- `V[i][VLMAX-1:128]` as 128-bit lanes. -/
def State.upper (s : State) (i : VNum) : List Xmm := (s.v.get i).upper

/-- Bit `k` of `V[i]`, `0 ≤ k < VLMAX` (R9, R20). -/
def State.vbit (s : State) (i : VNum) (k : Nat) : Bool :=
  if k < 128 then (s.xmm i).getLsbD k
  else ((s.upper i).getD (k / 128 - 1) 0).getLsbD (k % 128)

/-- `VLMAX` (R7, R8). -/
def vlmax (c : Config) : Nat := 128 * (1 + c.upperLanes)

/-- A legacy write of `xmm<d>`: bits VLMAX-1:128 unchanged (R22). -/
def State.writeLegacy (s : State) (d : VNum) (r : Xmm) : State :=
  { s with v := s.v.set d.val { xmm := r, upper := s.upper d } }

/-- A VEX write of `xmm<d>`: bits VLMAX-1:128 zeroed (R23). -/
def State.writeVex (s : State) (d : VNum) (r : Xmm) : State :=
  { s with v := s.v.set d.val { xmm := r, upper := List.replicate s.cfg.upperLanes 0 } }

/-- A general register as an address of `asize` bits reads it: whole, or its low 32 bits (R26, R44). -/
def State.addrReg (s : State) (narrow : Bool) (i : GNum) : Word :=
  if narrow then ((s.x.get i).setWidth 32).setWidth 64 else s.x.get i

/-- The address of the next instruction, `ip + len` modulo 2^64 or 2^32 (R27). -/
def State.nextIp (s : State) (len : Nat) : Word := wrapLinear s.cfg.mode (s.ip + BitVec.ofNat 64 len)

/-- The end of an instruction that completes: `ip <- ip + len` (R27), and the model's counter of free values moves on
(log 21). -/
def State.complete (s : State) (len : Nat) : State :=
  { s with ip := s.nextIp len, freeCounter := s.freeCounter + 1 }

/-! ### Faults -/

/-- TAKING A FAULT (R181, D9): the step answers the recorded outcome and the run stops. No state is changed (R180),
nothing is pushed and no handler runs; there is no return from it (R195). -/
def Stop.outcome : Stop → Host.Outcome State Fault Refusal
  | .fault f => .fault f
  | .refuse r => .refused r

/-- The state that a faulted run leaves: the state before the instruction, with the fault recorded (R180, R181, R34). -/
def State.recordFault (s : State) (f : Fault) : State := { s with faultRecord := some f }

/-- The vector number (R182). -/
def Fault.vector : Fault → Nat
  | .invalidOpcode _ => 6
  | .deviceNotAvailable _ => 7
  | .stackFault _ => 12
  | .generalProtection _ => 13
  | .pageFault _ _ _ => 14

/-- The error code, where the fault has one (R182). -/
def Fault.errorCode : Fault → Option (BitVec 32)
  | .invalidOpcode _ => none
  | .deviceNotAvailable _ => none
  | .stackFault _ => some 0
  | .generalProtection _ => some 0
  | .pageFault _ code _ => some code

/-- The recorded instruction address (R182). -/
def Fault.at : Fault → Word
  | .invalidOpcode ip => ip
  | .deviceNotAvailable ip => ip
  | .stackFault ip => ip
  | .generalProtection ip => ip
  | .pageFault ip _ _ => ip

/-- `raise #UD` -/
def State.ud (s : State) : Stop := .fault (.invalidOpcode s.ip)

/-- `raise #NM` -/
def State.nm (s : State) : Stop := .fault (.deviceNotAvailable s.ip)

/-- `raise #GP(0)` -/
def State.gp (s : State) : Stop := .fault (.generalProtection s.ip)

/-- `raise #SS(0)` -/
def State.ss (s : State) : Stop := .fault (.stackFault s.ip)

/-! ### The enabling sequence (`70_reset_and_hazards.md` R211) -/

/-- Items 2 to 4 of R211, done by software out of scope: enter 64-bit mode (R211 leaves it or protected mode: DESIGN
CHOICE, log 1); set `CR4.OSFXSR`, clear `CR0.EM` and `CR0.TS`; set `CR4.OSXSAVE`, and with it ECX bit 27 of `cpuidEcx`, and
`XCR0` bits 0, 1 and 2. What item 1 looks for is `cpuidFinds`; item 5 is the launch's. -/
def State.boot (s : State) : State :=
  { s with cfg := { s.cfg with
      mode := .mode64
      cr0 := s.cfg.cr0 &&& ~~~0xC
      cr4 := s.cfg.cr4 ||| 0x40200
      xcr0 := s.cfg.xcr0 ||| 0x7 } }

end Sys2Proof.Machine
end

