-- ==== Sys2Proof/Machine/Aes.lean ====
section
/-!
DEFINITION. The AES transformations (`40_aes_transformations.md`) and the result functions of the six operations.

The laws of R112 are about `subBytes`, `invSubBytes`, `shiftRows`, `invShiftRows`, `mixColumns` and `invMixColumns`;
`Obligations.TransformationLaws` states all four of its items.
-/

namespace Sys2Proof.Machine

/-! ### Bytes as elements of GF(2^8) (R101) -/

/-- `xtime(a)`: shift left, reduce by `0x1B` when bit 7 was set. -/
def xtime (a : Byte) : Byte := if a.getLsbD 7 then (a <<< 1) ^^^ 0x1B else a <<< 1

/-- `xtime` applied `n` times. -/
def xtimes : Nat → Byte → Byte
  | 0, a => a
  | n + 1, a => xtime (xtimes n a)

/-- The XOR of `xtime^i(a)` over the bits `i < n` that are set in `b`. -/
def gmulBits (a b : Byte) : Nat → Byte
  | 0 => 0
  | n + 1 => gmulBits a b n ^^^ (if b.getLsbD n then xtimes n a else 0)

/-- `a • b`: the XOR over every bit `i` set in `b` of `xtime^i(a)`. -/
def gmul (a b : Byte) : Byte := gmulBits a b 8

/-- `Aff(b)`, the affine map of the S-box (R102). -/
def affine (b : Byte) : Byte :=
  b ^^^ b.rotateLeft 1 ^^^ b.rotateLeft 2 ^^^ b.rotateLeft 3 ^^^ b.rotateLeft 4 ^^^ 0x63

/-! ### Byte substitution (R102 to R104) -/

/-- Entry `a` of a table of sixteen rows, each row written as in the spec: entry `x0` leftmost. -/
def tableEntry (rows : List Xmm) (a : Byte) : Byte :=
  byteAt (rows.getD (a.toNat / 16) 0) (15 - a.toNat % 16)

/-- The value table of `S` (R102). -/
def sboxRows : List Xmm :=
  [0x637C777BF26B6FC53001672BFED7AB76, 0xCA82C97DFA5947F0ADD4A2AF9CA472C0,
   0xB7FD9326363FF7CC34A5E5F171D83115, 0x04C723C31896059A071280E2EB27B275,
   0x09832C1A1B6E5AA0523BD6B329E32F84, 0x53D100ED20FCB15B6ACBBE394A4C58CF,
   0xD0EFAAFB434D338545F9027F503C9FA8, 0x51A3408F929D38F5BCB6DA2110FFF3D2,
   0xCD0C13EC5F974417C4A77E3D645D1973, 0x60814FDC222A908846EEB814DE5E0BDB,
   0xE0323A0A4906245CC2D3AC629195E479, 0xE7C8376D8DD54EA96C56F4EA657AAE08,
   0xBA78252E1CA6B4C6E8DD741F4BBD8B8A, 0x703EB5664803F60E613557B986C11D9E,
   0xE1F8981169D98E949B1E87E9CE5528DF, 0x8CA1890DBFE6426841992D0FB054BB16]

/-- The value table of `InvS` (R103). -/
def invSboxRows : List Xmm :=
  [0x52096AD53036A538BF40A39E81F3D7FB, 0x7CE339829B2FFF87348E4344C4DEE9CB,
   0x547B9432A6C2233DEE4C950B42FAC34E, 0x082EA16628D924B2765BA2496D8BD125,
   0x72F8F66486689816D4A45CCC5D65B692, 0x6C704850FDEDB9DA5E154657A78D9D84,
   0x90D8AB008CBCD30AF7E45805B8B34506, 0xD02C1E8FCA3F0F02C1AFBD0301138A6B,
   0x3A9111414F67DCEA97F2CFCEF0B4E673, 0x96AC7422E7AD3585E2F937E81C75DF6E,
   0x47F11A711D29C5896FB7620EAA18BE1B, 0xFC563E4BC6D279209ADBC0FE78CD5AF4,
   0x1FDDA8338807C731B11210592780EC5F, 0x60517FA919B54A0D2DE57A9F93C99CEF,
   0xA0E03B4DAE2AF5B0C8EBBB3C83539961, 0x172B047EBA77D626E169146355210C7D]

/-- `S(a)` (R102). -/
def sbox (a : Byte) : Byte := tableEntry sboxRows a

/-- `InvS(a)` (R103). -/
def invSbox (a : Byte) : Byte := tableEntry invSboxRows a

/-- `SubBytes` (R104); commutes with the row shifts and is not linear (R112, items 2 and 3). -/
def subBytes (v : Xmm) : Xmm := packBytes (fun i => sbox (byteAt v i))

/-- `InvSubBytes` (R104); the inverse of `subBytes` (R112, item 1). -/
def invSubBytes (v : Xmm) : Xmm := packBytes (fun i => invSbox (byteAt v i))

/-! ### The state as a 4 by 4 array (R100) -/

/-- `s[r][c] = Byte(v, r + 4*c)` (R100, D23). -/
def cell (v : Xmm) (r c : Nat) : Byte := byteAt v (r + 4 * c)

/-- The value whose array is `f r c`. -/
def ofCells (f : Nat → Nat → Byte) : Xmm := packBytes (fun i => f (i % 4) (i / 4))

/-- `ShiftRows`: `s'[r][c] = s[r][(c + r) mod 4]` (R105); linear over XOR (R112, item 3). -/
def shiftRows (v : Xmm) : Xmm := ofCells (fun r c => cell v r ((c + r) % 4))

/-- `InvShiftRows`: `s'[r][c] = s[r][(c - r) mod 4]` (R106); the inverse of `shiftRows` (R112, item 1). -/
def invShiftRows (v : Xmm) : Xmm := ofCells (fun r c => cell v r ((c + 4 - r) % 4))

/-- Row `r` of the column that `MixColumns` makes of `(s0, s1, s2, s3)` (R107). -/
def mixByte (s0 s1 s2 s3 : Byte) : Nat → Byte
  | 0 => gmul s0 0x02 ^^^ gmul s1 0x03 ^^^ s2 ^^^ s3
  | 1 => s0 ^^^ gmul s1 0x02 ^^^ gmul s2 0x03 ^^^ s3
  | 2 => s0 ^^^ s1 ^^^ gmul s2 0x02 ^^^ gmul s3 0x03
  | _ => gmul s0 0x03 ^^^ s1 ^^^ s2 ^^^ gmul s3 0x02

/-- Row `r` of the column that `InvMixColumns` makes of `(s0, s1, s2, s3)` (R108). -/
def invMixByte (s0 s1 s2 s3 : Byte) : Nat → Byte
  | 0 => gmul s0 0x0E ^^^ gmul s1 0x0B ^^^ gmul s2 0x0D ^^^ gmul s3 0x09
  | 1 => gmul s0 0x09 ^^^ gmul s1 0x0E ^^^ gmul s2 0x0B ^^^ gmul s3 0x0D
  | 2 => gmul s0 0x0D ^^^ gmul s1 0x09 ^^^ gmul s2 0x0E ^^^ gmul s3 0x0B
  | _ => gmul s0 0x0B ^^^ gmul s1 0x0D ^^^ gmul s2 0x09 ^^^ gmul s3 0x0E

/-- `MixColumns` (R107); linear over XOR, and fixes a state with equal bytes in each column (R112, items 3 and 4). -/
def mixColumns (v : Xmm) : Xmm :=
  ofCells (fun r c => mixByte (cell v 0 c) (cell v 1 c) (cell v 2 c) (cell v 3 c) r)

/-- `InvMixColumns` (R108; the source's "InvMixColumn" is the same function, `90_conflicts.md` C3); the inverse of
`mixColumns` (R112, item 1). -/
def invMixColumns (v : Xmm) : Xmm :=
  ofCells (fun r c => invMixByte (cell v 0 c) (cell v 1 c) (cell v 2 c) (cell v 3 c) r)

/-! ### Words (R109, R110) -/

/-- `SubWord`: the S-box on each of four bytes in place (R109). -/
def subWord (x : Dword) : Dword :=
  sbox (x.extractLsb' 24 8) ++ (sbox (x.extractLsb' 16 8) ++ (sbox (x.extractLsb' 8 8) ++ sbox (x.extractLsb' 0 8)))

/-- `RotWord(X) = X[7:0] || X[31:8]` (R110). -/
def rotWord (x : Dword) : Dword := x.extractLsb' 0 8 ++ x.extractLsb' 8 24

/-! ### The result functions -/

/-- `DEC(s, k)` (R120, R121). -/
def aesDec (state key : Xmm) : Xmm := invMixColumns (invSubBytes (invShiftRows state)) ^^^ key

/-- `DECLAST(s, k)` (R130, R131). -/
def aesDecLast (state key : Xmm) : Xmm := invSubBytes (invShiftRows state) ^^^ key

/-- `ENC(s, k)` (R140, R141). -/
def aesEnc (state key : Xmm) : Xmm := mixColumns (subBytes (shiftRows state)) ^^^ key

/-- `ENCLAST(s, k)` (R150, R151). -/
def aesEncLast (state key : Xmm) : Xmm := subBytes (shiftRows state) ^^^ key

/-- `IMC(s)` (R160, R161). -/
def aesImc (src : Xmm) : Xmm := invMixColumns src

/-- `KGA(s, imm8)` (R170, R171): `RCON` is the zero-extended immediate; `X0` and `X2` are never used (D25, I22). -/
def aesKeygen (src : Xmm) (imm : Byte) : Xmm :=
  let x3 := dwordAt src 3
  let x1 := dwordAt src 1
  let rcon : Dword := imm.setWidth 32
  (rotWord (subWord x3) ^^^ rcon) ++ (subWord x3 ++ ((rotWord (subWord x1) ^^^ rcon) ++ subWord x1))

end Sys2Proof.Machine
end

