-- ==== Sys2Proof/Machine/Operands.lean ====
section
/-!
DEFINITION. Operand forms: the address of a memory operand (`20_memory.md` R44), the read primitive (R45 to R47) and
`Src2` (`00_scope.md` R11).
-/

namespace Sys2Proof.Machine

/-- A memory operand at Level O, the record of R44. `narrow` is `asize = 32`; the displacement is already sign-extended. -/
structure MemOperand where
  seg : Seg
  base : Option GNum
  index : Option GNum
  scale : BitVec 2
  disp : Word
  ripRel : Bool
  narrow : Bool
  deriving DecidableEq, Repr

/-- The displacement, sign-extended to the address size; the sum is cut to it (R44, R67). -/
def dispValue : Disp → Word
  | .none => 0
  | .d8 d => d.signExtend 64
  | .d32 d => d.signExtend 64

/-- The segment override among the prefixes, if there is one (R63). -/
def segOverride : List Prefix → Option Seg
  | [] => none
  | .seg s :: _ => some s
  | .addrSize :: ps => segOverride ps
  | .opSize :: ps => segOverride ps
  | .lock :: ps => segOverride ps
  | .repne :: ps => segOverride ps
  | .rep :: ps => segOverride ps

/-- `SS` when the base is register number 4 or 5, `DS` otherwise (R44, R68). -/
def defaultSeg : Option GNum → Seg
  | none => .ds
  | some b => if b.val = 4 ∨ b.val = 5 then .ss else .ds

/-- The address size is 32 bits in Mode32, and in Mode64 under a `67` prefix (R44, R63). -/
def narrowAddr (m : Mode) (ps : List Prefix) : Bool :=
  match m with
  | .mode32 => true
  | .mode64 => ps.contains .addrSize
  | .realAddress => ps.contains .addrSize
  | .virtual8086 => ps.contains .addrSize
  | .systemManagement => ps.contains .addrSize
  | .protected16 => ps.contains .addrSize

/-- The base register of a memory form (R67, R68). -/
def addrBase : Addr → Option GNum
  | .ripRel _ => none
  | .abs _ => none
  | .base b _ => some b
  | .sib b _ _ _ => some b
  | .sibNoBase _ _ _ => none

/-- The index register of a memory form (R68). -/
def addrIndex : Addr → Option GNum
  | .ripRel _ => none
  | .abs _ => none
  | .base _ _ => none
  | .sib _ i _ _ => i
  | .sibNoBase i _ _ => i

/-- The scale field of a memory form (R68). -/
def addrScale : Addr → BitVec 2
  | .ripRel _ => 0
  | .abs _ => 0
  | .base _ _ => 0
  | .sib _ _ s _ => s
  | .sibNoBase _ s _ => s

/-- The displacement of a memory form (R67, R68). -/
def addrDisp : Addr → Disp
  | .ripRel d => .d32 d
  | .abs d => .d32 d
  | .base _ d => d
  | .sib _ _ _ d => d
  | .sibNoBase _ _ d => .d32 d

/-- Whether a memory form is relative to the next instruction (R67). -/
def addrIsRipRel : Addr → Bool
  | .ripRel _ => true
  | .abs _ => false
  | .base _ _ => false
  | .sib _ _ _ _ => false
  | .sibNoBase _ _ _ => false

/-- The record of R44 that an addressing form, its prefixes and the mode stand for. -/
def memOperand (m : Mode) (ps : List Prefix) (a : Addr) : MemOperand where
  seg := (segOverride ps).getD (defaultSeg (addrBase a))
  base := addrBase a
  index := addrIndex a
  scale := addrScale a
  disp := dispValue (addrDisp a)
  ripRel := addrIsRipRel a
  narrow := narrowAddr m ps

/-- `SegBase(seg)`: in Mode64 only `FS` and `GS` have a base (R44). -/
def segBaseOf (c : Config) (seg : Seg) : Word :=
  match seg with
  | .fs => c.segBase.fs
  | .gs => c.segBase.gs
  | .cs => if c.mode = .mode32 then c.segBase.cs else 0
  | .ds => if c.mode = .mode32 then c.segBase.ds else 0
  | .es => if c.mode = .mode32 then c.segBase.es else 0
  | .ss => if c.mode = .mode32 then c.segBase.ss else 0

/-- The first term of the offset: the next instruction's address, the base register, or nothing (R44). -/
def State.baseTerm (s : State) (len : Nat) (o : MemOperand) : Word :=
  if o.ripRel then s.nextIp len
  else
    match o.base with
    | none => 0
    | some b => s.addrReg o.narrow b

/-- The second term of the offset, `x[index] * 2^scale`, or nothing (R44, R68). -/
def State.indexTerm (s : State) (o : MemOperand) : Word :=
  match o.index with
  | none => 0
  | some i => s.addrReg o.narrow i <<< o.scale.toNat

/-- `EA`: the offset modulo `2^asize`, widened with zero bits (R44). -/
def State.effective (s : State) (len : Nat) (o : MemOperand) : Word :=
  let offset := s.baseTerm len o + s.indexTerm o + o.disp
  if o.narrow then (offset.setWidth 32).setWidth 64 else offset

/-- `linear = SegBase(seg) + EA` modulo 2^64 or 2^32 (R44). -/
def State.linear (s : State) (len : Nat) (o : MemOperand) : Word :=
  wrapLinear s.cfg.mode (segBaseOf s.cfg o.seg + s.effective len o)

/-- The linear address of byte `k` of an operand (R42, R45; it wraps at the top of the linear space, log 11). -/
def operandByte (m : Mode) (linear : Word) (k : Nat) : Word := wrapLinear m (linear + BitVec.ofNat 64 k)

/-- `Canonical(a)`: bits 63 down to `VA_BITS - 1` are all equal (R45), all zero or all one. -/
def canonical (vaBits : Nat) (a : Word) : Bool :=
  decide (a.toNat < 2 ^ (vaBits - 1)) || decide (2 ^ 64 - 2 ^ (vaBits - 1) ≤ a.toNat)

/-- Step 2 of R45: some byte is non-canonical (Mode64), or beyond the limit that `Translate` reports (Mode32). -/
def outOfRange (c : Config) (linear : Word) : Bool :=
  match c.mode with
  | .mode64 => (List.range 16).any (fun k => !canonical c.vaBits (operandByte c.mode linear k))
  | .mode32 => (List.range 16).any (fun k => beyondLimit c (operandByte c.mode linear k))
  | .realAddress => false
  | .virtual8086 => false
  | .systemManagement => false
  | .protected16 => false

/-- A legacy memory operand must be aligned on a 16-byte boundary; a VEX operand need not be (R46). -/
def misaligned (f : Form) (linear : Word) : Bool :=
  match f with
  | .legacy => linear.extractLsb' 0 4 != 0#4
  | .vex => false

/-- Steps 1 and 2 of R45. Where both fail their order is a free value (I10, log 9), which shows only through `SS`. -/
def State.addressCheck (s : State) (f : Form) (seg : Seg) (linear : Word) : Option Stop :=
  match misaligned f linear, outOfRange s.cfg linear with
  | false, false => none
  | true, false => some s.gp
  | false, true => some (if seg = .ss then s.ss else s.gp)
  | true, true => some (if seg = .ss ∧ Config.canonicalFirst s.freeCounter = true then s.ss else s.gp)

/-- The bytes of an operand whose translation fails, with their error codes (R45 step 3). -/
def failingBytes (c : Config) (linear : Word) : List (Word × BitVec 32) :=
  (List.range 16).filterMap (fun k =>
    match translate c .read (operandByte c.mode linear k) with
    | .location _ => none
    | .pageFault code => some (operandByte c.mode linear k, code)
    | .device => none)

/-- The bytes of an operand that `Translate` maps to a device (R48, I20). -/
def deviceBytes (c : Config) (linear : Word) : List Word :=
  (List.range 16).filterMap (fun k =>
    match translate c .read (operandByte c.mode linear k) with
    | .location _ => none
    | .pageFault _ => none
    | .device => some (operandByte c.mode linear k))

/-- Step 3 of R45: `#PF` when a byte's translation fails, reporting one of the failing bytes, which one being a free
value (R47, I11, log 10); else a refusal when a byte lies on a device (I20). -/
def State.translationCheck (s : State) (linear : Word) : Option Stop :=
  match failingBytes s.cfg linear with
  | f :: fs =>
    let g := (f :: fs).getD (Config.pageFaultPick s.freeCounter % (f :: fs).length) f
    some (.fault (.pageFault s.ip g.2 g.1))
  | [] =>
    match deviceBytes s.cfg linear with
    | a :: _ => some (.refuse (.device .read a))
    | [] => none

/-- The 16 bytes at a linear address as one value, the lowest address in bits 7:0 (R42). -/
def State.bytes16 (s : State) (linear : Word) : Xmm :=
  packBytes (fun k => s.byteAtLinear (operandByte s.cfg.mode linear k))

/-- `MemRead(linear, 16)` (R45). -/
def State.memRead (s : State) (f : Form) (seg : Seg) (linear : Word) : Except Stop Xmm :=
  match s.addressCheck f seg linear with
  | some stop => .error stop
  | none =>
    match s.translationCheck linear with
    | some stop => .error stop
    | none => .ok (s.bytes16 linear)

/-- `Src2(op)`: a vector register, or 16 bytes of memory (R11). -/
def State.src2 (s : State) (f : Form) (ps : List Prefix) (len : Nat) (src : RM) : Except Stop Xmm :=
  match src with
  | .reg j => .ok (s.xmm j)
  | .mem a =>
    s.memRead f (memOperand s.cfg.mode ps a).seg (s.linear len (memOperand s.cfg.mode ps a))

end Sys2Proof.Machine
end

