-- ==== Sys2Proof/Machine/Flags.lean ====
section
/-!
DEFINITION. No instruction in scope computes a flag (`10_state.md` R28). The bits that decide whether one executes are
those of R29; from them the premise `Enabled` (`60_exceptions.md` R188) and `Check` (R183).
-/

namespace Sys2Proof.Machine

/-- `CR0.EM`, bit 2 (R29). -/
def cr0Em (c : Config) : Bool := c.cr0.getLsbD 2

/-- `CR0.TS`, bit 3 (R29). -/
def cr0Ts (c : Config) : Bool := c.cr0.getLsbD 3

/-- `CR4.OSFXSR`, bit 9 (R29). -/
def cr4Osfxsr (c : Config) : Bool := c.cr4.getLsbD 9

/-- `CR4.OSXSAVE`, bit 18 (R29). -/
def cr4Osxsave (c : Config) : Bool := c.cr4.getLsbD 18

/-- `CPUID.(EAX=01H):ECX` as software reads it: bit 27 (OSXSAVE) mirrors `CR4.OSXSAVE`
(`70_reset_and_hazards.md` R211 item 1), the other bits are the part's (R29). -/
def cpuidEcx (c : Config) : BitVec 32 :=
  (c.cpuid1Ecx &&& ~~~0x8000000) ||| (if cr4Osxsave c then 0x8000000 else 0)

/-- `CPUID_AES`: ECX bit 25 (R2, R29). -/
def cpuidAes (c : Config) : Bool := (cpuidEcx c).getLsbD 25

/-- `CPUID_AVX`: ECX bit 28 (R2, R29). -/
def cpuidAvx (c : Config) : Bool := (cpuidEcx c).getLsbD 28

/-- The OSXSAVE flag, ECX bit 27 (R211 item 1). `Check` does not consult it (R183). -/
def cpuidOsxsave (c : Config) : Bool := (cpuidEcx c).getLsbD 27

/-- What software must find in `CPUID.(EAX=01H):ECX` before it uses the legacy or the VEX forms (R211 item 1). -/
def cpuidFinds (f : Form) (c : Config) : Bool :=
  match f with
  | .legacy => cpuidAes c
  | .vex => cpuidAes c && cpuidAvx c && cpuidOsxsave c

/-- `XCR0.SSE`, bit 1 (R29). -/
def xcr0Sse (c : Config) : Bool := c.xcr0.getLsbD 1

/-- `XCR0.AVX`, bit 2 (R29). -/
def xcr0Avx (c : Config) : Bool := c.xcr0.getLsbD 2

/-- `Enabled(legacy)` (R188). -/
def enabledLegacy (c : Config) : Bool := cpuidAes c && !cr0Em c && cr4Osfxsr c && !cr0Ts c

/-- `Enabled(VEX)` (R188). -/
def enabledVex (c : Config) : Bool :=
  cpuidAes c && cpuidAvx c && cr4Osxsave c && xcr0Sse c && xcr0Avx c && !cr0Ts c

/-- `Enabled(form)` (R188). -/
def enabled (f : Form) (c : Config) : Bool :=
  match f with
  | .legacy => enabledLegacy c
  | .vex => enabledVex c

/-- `Check(legacy)` (R183), in the order of the rule, after the refusal of the modes of I16. -/
def State.checkLegacy (s : State) (e : LegEnc) : Option Stop :=
  if !s.cfg.mode.modelled then some (.refuse (.modeNotInScope s.cfg.mode))
  else if !cpuidAes s.cfg then some s.ud
  else if cr0Em s.cfg || !cr4Osfxsr s.cfg then some s.ud
  else if e.prefixes.contains .lock then some s.ud
  else if cr0Ts s.cfg then some s.nm
  else none

/-- A `66`, `F2`, `F3`, `F0` or REX byte precedes the VEX prefix (R76, R186). -/
def forbiddenPrefix (e : VexEnc) : Bool :=
  e.prefixes.contains .opSize || e.prefixes.contains .repne || e.prefixes.contains .rep ||
  e.prefixes.contains .lock || e.rexBefore.isSome

/-- `Check(VEX)` (R183), in the order of the rule, after the refusal of the modes of I16. `round` says that the opcode is
one of the four round opcodes (R79); `vvvvBad` that the row reserves `vvvv` and the stored field is not `1111b` (R78). -/
def State.checkVex (s : State) (e : VexEnc) (round vvvvBad : Bool) : Option Stop :=
  if !s.cfg.mode.modelled then some (.refuse (.modeNotInScope s.cfg.mode))
  else if !(cpuidAes s.cfg && cpuidAvx s.cfg) then some s.ud
  else if !cr4Osxsave s.cfg || !xcr0Sse s.cfg || !xcr0Avx s.cfg then some s.ud
  else if forbiddenPrefix e then some s.ud
  else if e.l then (if round && s.cfg.hasVaes256 then some (.refuse .vaes256) else some s.ud)
  else if vvvvBad then some s.ud
  else if cr0Ts s.cfg then some s.nm
  else none

end Sys2Proof.Machine
end

