-- ==== Sys2Proof/Machine/Shape.lean ====
section
/-!
DEFINITION. The shape that the pseudocode of all twelve instruction rules shares (`41_aesdec.md` R120 to
`46_aeskeygenassist.md` R171): `Check`, then the operand read, then one register write, then `ip <- ip + len`.
-/

namespace Sys2Proof.Machine

/-- A legacy instruction with destination `d`, operand `src`, `imms` immediate bytes; `result` makes the low 128 bits of
the destination from the operand read. Bits VLMAX-1:128 are unchanged (R22). -/
def legacyInstr (e : LegEnc) (d : VNum) (src : RM) (imms : Nat) (result : Xmm → Xmm) (s : State) :
    Host.Outcome State Fault Refusal :=
  match s.checkLegacy e with
  | some stop => stop.outcome
  | none =>
    match s.src2 .legacy e.prefixes (legacyLen e src imms) src with
    | .error stop => stop.outcome
    | .ok operand => .next ((s.writeLegacy d (result operand)).complete (legacyLen e src imms))

/-- A VEX instruction; `round` and `vvvvBad` as `State.checkVex` takes them. Bits VLMAX-1:128 of the destination are
zeroed (R23). -/
def vexInstr (e : VexEnc) (round vvvvBad : Bool) (d : VNum) (src : RM) (imms : Nat) (result : Xmm → Xmm) (s : State) :
    Host.Outcome State Fault Refusal :=
  match s.checkVex e round vvvvBad with
  | some stop => stop.outcome
  | none =>
    match s.src2 .vex e.prefixes (vexLen e src imms) src with
    | .error stop => stop.outcome
    | .ok operand => .next ((s.writeVex d (result operand)).complete (vexLen e src imms))

end Sys2Proof.Machine
end

