-- ==== Sys2Proof/Machine/Keys.lean ====
section
/-!
DEFINITION. The round-key instructions (`45_aesimc.md`, `46_aeskeygenassist.md`): write-only destination, and a reserved
`VEX.vvvv` that must be `1111b` (R163, R173).
-/

namespace Sys2Proof.Machine

/-- `AESIMC xmm1, xmm2/m128` (R160). -/
def execAesimc (e : LegEnc) (d : VNum) (src : RM) (s : State) : Host.Outcome State Fault Refusal :=
  legacyInstr e d src 0 aesImc s

/-- `VAESIMC xmm1, xmm2/m128` (R161, R163). -/
def execVaesimc (e : VexEnc) (vvvv : BitVec 4) (d : VNum) (src : RM) (s : State) : Host.Outcome State Fault Refusal :=
  vexInstr e false (vvvv != 0b1111#4) d src 0 aesImc s

/-- `AESKEYGENASSIST xmm1, xmm2/m128, imm8` (R170). -/
def execAeskeygenassist (e : LegEnc) (d : VNum) (src : RM) (imm : Byte) (s : State) :
    Host.Outcome State Fault Refusal :=
  legacyInstr e d src 1 (fun operand => aesKeygen operand imm) s

/-- `VAESKEYGENASSIST xmm1, xmm2/m128, imm8` (R171, R173). -/
def execVaeskeygenassist (e : VexEnc) (vvvv : BitVec 4) (d : VNum) (src : RM) (imm : Byte) (s : State) :
    Host.Outcome State Fault Refusal :=
  vexInstr e false (vvvv != 0b1111#4) d src 1 (fun operand => aesKeygen operand imm) s

end Sys2Proof.Machine
end

