-- ==== Sys2Proof/Machine/Rounds.lean ====
section
/-!
DEFINITION. The round instructions (`41_aesdec.md`, `42_aesdeclast.md`, `43_aesenc.md`, `44_aesenclast.md`). The state
operand is the destination in the legacy form and `VEX.vvvv` in the VEX form (`00_scope.md` R12, `90_conflicts.md` C5).
-/

namespace Sys2Proof.Machine

/-- `AESDEC xmm1, xmm2/m128` (R120). -/
def execAesdec (e : LegEnc) (d : VNum) (src : RM) (s : State) : Host.Outcome State Fault Refusal :=
  legacyInstr e d src 0 (fun key => aesDec (s.xmm d) key) s

/-- `VAESDEC xmm1, xmm2, xmm3/m128` (R121). -/
def execVaesdec (e : VexEnc) (d a : VNum) (src : RM) (s : State) : Host.Outcome State Fault Refusal :=
  vexInstr e true false d src 0 (fun key => aesDec (s.xmm a) key) s

/-- `AESDECLAST xmm1, xmm2/m128` (R130). -/
def execAesdeclast (e : LegEnc) (d : VNum) (src : RM) (s : State) : Host.Outcome State Fault Refusal :=
  legacyInstr e d src 0 (fun key => aesDecLast (s.xmm d) key) s

/-- `VAESDECLAST xmm1, xmm2, xmm3/m128` (R131). -/
def execVaesdeclast (e : VexEnc) (d a : VNum) (src : RM) (s : State) : Host.Outcome State Fault Refusal :=
  vexInstr e true false d src 0 (fun key => aesDecLast (s.xmm a) key) s

/-- `AESENC xmm1, xmm2/m128` (R140). -/
def execAesenc (e : LegEnc) (d : VNum) (src : RM) (s : State) : Host.Outcome State Fault Refusal :=
  legacyInstr e d src 0 (fun key => aesEnc (s.xmm d) key) s

/-- `VAESENC xmm1, xmm2, xmm3/m128` (R141). -/
def execVaesenc (e : VexEnc) (d a : VNum) (src : RM) (s : State) : Host.Outcome State Fault Refusal :=
  vexInstr e true false d src 0 (fun key => aesEnc (s.xmm a) key) s

/-- `AESENCLAST xmm1, xmm2/m128` (R150). -/
def execAesenclast (e : LegEnc) (d : VNum) (src : RM) (s : State) : Host.Outcome State Fault Refusal :=
  legacyInstr e d src 0 (fun key => aesEncLast (s.xmm d) key) s

/-- `VAESENCLAST xmm1, xmm2, xmm3/m128` (R151). -/
def execVaesenclast (e : VexEnc) (d a : VNum) (src : RM) (s : State) : Host.Outcome State Fault Refusal :=
  vexInstr e true false d src 0 (fun key => aesEncLast (s.xmm a) key) s

end Sys2Proof.Machine
end

