-- ==== Sys2Proof/Machine/Dispatch.lean ====
section
/-!
DEFINITION. One arm per constructor of `Instr`, each a direct call of the instruction's meaning.
-/

namespace Sys2Proof.Machine

/-- The meaning of an instruction, at Level O (`00_scope.md` R6). -/
def exec (i : Instr) (s : State) : Host.Outcome State Fault Refusal :=
  match i with
  | .aesdec e d src => Sys2Proof.Machine.execAesdec e d src s
  | .vaesdec e d a src => Sys2Proof.Machine.execVaesdec e d a src s
  | .aesdeclast e d src => Sys2Proof.Machine.execAesdeclast e d src s
  | .vaesdeclast e d a src => Sys2Proof.Machine.execVaesdeclast e d a src s
  | .aesenc e d src => Sys2Proof.Machine.execAesenc e d src s
  | .vaesenc e d a src => Sys2Proof.Machine.execVaesenc e d a src s
  | .aesenclast e d src => Sys2Proof.Machine.execAesenclast e d src s
  | .vaesenclast e d a src => Sys2Proof.Machine.execVaesenclast e d a src s
  | .aesimc e d src => Sys2Proof.Machine.execAesimc e d src s
  | .vaesimc e vvvv d src => Sys2Proof.Machine.execVaesimc e vvvv d src s
  | .aeskeygenassist e d src imm => Sys2Proof.Machine.execAeskeygenassist e d src imm s
  | .vaeskeygenassist e vvvv d src imm => Sys2Proof.Machine.execVaeskeygenassist e vvvv d src imm s

end Sys2Proof.Machine
end

