-- ==== Sys2Proof/Machine/Fetch.lean ====
section
/-!
DEFINITION. Instruction fetch from the program text (`20_memory.md` R41, R47; `60_exceptions.md` R189 c, R191, R193;
`70_reset_and_hazards.md` R219; `10_state.md` R27), and placing one instruction where the next step fetches it.
-/

namespace Sys2Proof.Machine

/-- Where `ip` stands in the program text, counted from its start address; addresses wrap modulo 2^64 (R27). The end
address (R219) is where this is the text's length. -/
def State.textOffset (s : State) : Nat := (s.ip - s.cfg.program.start).toNat

/-- The end address as a number that does not wrap: just past the last byte of the text (R219). -/
def programEnd (p : Program) : Nat := p.start.toNat + p.text.length

/-- The addresses near which the spec refuses a program (R27, I18): 2^47 in Mode64, which a text that wraps past the top
of the space may meet a second time, and 2^32 in Mode32. DESIGN CHOICE, unsafe (log 12): no other boundary is an edge, so
in Mode64 `ip` may be non-canonical, may pass from a non-canonical address to a canonical one, and wraps at 2^64. -/
def openEdges : Mode → List Nat
  | .mode64 => [2 ^ 47, 2 ^ 64 + 2 ^ 47]
  | .mode32 => [2 ^ 32]
  | .realAddress => []
  | .virtual8086 => []
  | .systemManagement => []
  | .protected16 => []

/-- The program is placed within 15 bytes of such an edge, or across it (R27: "the model refuses a program placed within 15
bytes of address 2^47 (or 2^32 in `Mode32`)"; I18). -/
def placementOpen (c : Config) : Bool :=
  (openEdges c.mode).any (fun edge =>
    decide (c.program.start.toNat ≤ edge + 15) && decide (edge ≤ programEnd c.program + 15))

/-- What stands after the bytes that could be fetched. -/
inductive WindowEnd where
  /-- fifteen bytes were fetched -/
  | full
  /-- the program text ended -/
  | textEnd
  /-- the fetch of the next byte stops the instruction -/
  | stop (st : Stop)
  deriving DecidableEq, Repr

/-- Fetch at most `n` bytes from linear address `a`, where the text goes on with the given bytes. `ip` is the address of
the instruction, for the fault's record; a page fault reports the first byte that fails (log 10). -/
def fetchBytes (c : Config) (ip : Word) : Nat → Word → List Byte → List Byte × WindowEnd
  | 0, _, _ => ([], .full)
  | _ + 1, _, [] => ([], .textEnd)
  | n + 1, a, b :: bs =>
    match translate c .fetch a with
    | .location _ => (b :: (fetchBytes c ip n (a + 1) bs).1, (fetchBytes c ip n (a + 1) bs).2)
    | .pageFault code => ([], .stop (.fault (.pageFault ip code a)))
    | .device => ([], .stop (.refuse (.device .fetch a)))

/-- The bytes at `ip`, at most 15 (R62), and what ends them. -/
def State.window (s : State) : List Byte × WindowEnd :=
  fetchBytes s.cfg s.ip 15 s.ip (s.cfg.program.text.drop s.textOffset)

/-- Decode the bytes fetched. A string that goes on past them ends as what stands there says: `#GP(0)` past 15 bytes
(R189 c), the fetch fault (R193 item 1), or a refusal at the end of the text (R219 c). -/
def State.decodeWindow (s : State) : Except Stop Instr :=
  match decode s.cfg.mode s.window.1 with
  | .ok (i, _) => .ok i
  | .error .truncated =>
    match s.window.2 with
    | .full => .error s.gp
    | .textEnd => .error (.refuse (.undecodable .truncated))
    | .stop st => .error st
  | .error e => .error (.refuse (.undecodable e))

/-- The instruction at `ip`, or why there is none. DESIGN CHOICE, unsafe (log 12): `ip` is not tested for being
canonical. The order of the tests: a refused mode first (R5, log 27); DESIGN CHOICE, unsafe (log 27): no rule orders the
end of a run (R219 b) against the refusal of R27, and the end address is tested first, so a program that R27 refuses is
final, not refused, where `ip` is already at its end address. -/
def State.fetchInstr (s : State) : Except Stop Instr :=
  if !s.cfg.mode.modelled then .error (.refuse (.modeNotInScope s.cfg.mode))
  else if s.textOffset = s.cfg.program.text.length then .error (.refuse .endOfRun)
  else if s.cfg.program.text.length < s.textOffset then .error (.refuse .outsideProgram)
  else if placementOpen s.cfg then .error (.refuse .placement)
  else s.decodeWindow

/-- A processor in one of the two modes stands as it is; from any other mode the enabling sequence of R211 is done
first (log 1). -/
def State.launched (s : State) : State := if s.cfg.mode.modelled then s else s.boot

/-- Load a program whose first byte is at `ip` (R34, R41). -/
def State.loadAtIp (s : State) (text : List Byte) : State :=
  { s with cfg := { s.cfg with program := { start := s.ip, text := text } } }

end Sys2Proof.Machine
end

