-- ==== Sys2Proof/Machine/Step.lean ====
section
/-!
DEFINITION. One step: fetch, decode, execute. A recorded fault is never cleared and no further step is taken
(`60_exceptions.md` R181, `93_implementation_defined.md` I21).
-/

namespace Sys2Proof.Machine

/-- One step of the machine. -/
def step (s : State) : Host.Outcome State Fault Refusal :=
  match s.faultRecord with
  | some f => .fault f
  | none =>
    match s.fetchInstr with
    | .error stop => stop.outcome
    | .ok i => exec i s

/-- The state with the instruction of `nbits` bits `w` as the program text at `ip`, from a launched processor, so that the
next step runs it (log 1). -/
def State.withFetchWord (s : State) (nbits w : Nat) : State := s.launched.loadAtIp (wordBytes nbits w)

end Sys2Proof.Machine
end

