-- ==== Sys2Proof/Safety.lean ====
section
/-!
DEFINITION. The terms in which claims are stated: views of an instruction, what it takes to complete, the invariant of
the machine, and runs (`70_reset_and_hazards.md` R219).
-/

namespace Sys2Proof.Machine

/-! ### Views of an instruction -/

/-- The format of an instruction (`30_encoding.md` R60). -/
def instrForm : Instr → Form
  | .aesdec _ _ _ => .legacy
  | .vaesdec _ _ _ _ => .vex
  | .aesdeclast _ _ _ => .legacy
  | .vaesdeclast _ _ _ _ => .vex
  | .aesenc _ _ _ => .legacy
  | .vaesenc _ _ _ _ => .vex
  | .aesenclast _ _ _ => .legacy
  | .vaesenclast _ _ _ _ => .vex
  | .aesimc _ _ _ => .legacy
  | .vaesimc _ _ _ _ => .vex
  | .aeskeygenassist _ _ _ _ => .legacy
  | .vaeskeygenassist _ _ _ _ _ => .vex

/-- Operand 1, the destination register (R61). -/
def instrDest : Instr → VNum
  | .aesdec _ d _ => d
  | .vaesdec _ d _ _ => d
  | .aesdeclast _ d _ => d
  | .vaesdeclast _ d _ _ => d
  | .aesenc _ d _ => d
  | .vaesenc _ d _ _ => d
  | .aesenclast _ d _ => d
  | .vaesenclast _ d _ _ => d
  | .aesimc _ d _ => d
  | .vaesimc _ _ d _ => d
  | .aeskeygenassist _ d _ _ => d
  | .vaeskeygenassist _ _ d _ _ => d

/-- The operand from `ModRM:r/m`, register or memory (R61). -/
def instrSrc : Instr → RM
  | .aesdec _ _ src => src
  | .vaesdec _ _ _ src => src
  | .aesdeclast _ _ src => src
  | .vaesdeclast _ _ _ src => src
  | .aesenc _ _ src => src
  | .vaesenc _ _ _ src => src
  | .aesenclast _ _ src => src
  | .vaesenclast _ _ _ src => src
  | .aesimc _ _ src => src
  | .vaesimc _ _ _ src => src
  | .aeskeygenassist _ _ src _ => src
  | .vaeskeygenassist _ _ _ src _ => src

/-- The prefix bytes of an instruction. -/
def instrPrefixes : Instr → List Prefix
  | .aesdec e _ _ => e.prefixes
  | .vaesdec e _ _ _ => e.prefixes
  | .aesdeclast e _ _ => e.prefixes
  | .vaesdeclast e _ _ _ => e.prefixes
  | .aesenc e _ _ => e.prefixes
  | .vaesenc e _ _ _ => e.prefixes
  | .aesenclast e _ _ => e.prefixes
  | .vaesenclast e _ _ _ => e.prefixes
  | .aesimc e _ _ => e.prefixes
  | .vaesimc e _ _ _ => e.prefixes
  | .aeskeygenassist e _ _ _ => e.prefixes
  | .vaeskeygenassist e _ _ _ _ => e.prefixes

/-- The four round operations in their VEX form, whose `VEX.L = 1` R79 treats apart. -/
def instrRoundVex : Instr → Bool
  | .aesdec _ _ _ => false
  | .vaesdec _ _ _ _ => true
  | .aesdeclast _ _ _ => false
  | .vaesdeclast _ _ _ _ => true
  | .aesenc _ _ _ => false
  | .vaesenc _ _ _ _ => true
  | .aesenclast _ _ _ => false
  | .vaesenclast _ _ _ _ => true
  | .aesimc _ _ _ => false
  | .vaesimc _ _ _ _ => false
  | .aeskeygenassist _ _ _ _ => false
  | .vaeskeygenassist _ _ _ _ _ => false

/-- `VEX.L`, false for a legacy form. -/
def instrL : Instr → Bool
  | .aesdec _ _ _ => false
  | .vaesdec e _ _ _ => e.l
  | .aesdeclast _ _ _ => false
  | .vaesdeclast e _ _ _ => e.l
  | .aesenc _ _ _ => false
  | .vaesenc e _ _ _ => e.l
  | .aesenclast _ _ _ => false
  | .vaesenclast e _ _ _ => e.l
  | .aesimc _ _ _ => false
  | .vaesimc e _ _ _ => e.l
  | .aeskeygenassist _ _ _ _ => false
  | .vaeskeygenassist e _ _ _ _ => e.l

/-- A forbidden prefix stands before the opcode: LOCK before a legacy form; `66`, `F2`, `F3`, LOCK or REX before a VEX
form (R76). -/
def badPrefix : Instr → Bool
  | .aesdec e _ _ => e.prefixes.contains .lock
  | .vaesdec e _ _ _ => forbiddenPrefix e
  | .aesdeclast e _ _ => e.prefixes.contains .lock
  | .vaesdeclast e _ _ _ => forbiddenPrefix e
  | .aesenc e _ _ => e.prefixes.contains .lock
  | .vaesenc e _ _ _ => forbiddenPrefix e
  | .aesenclast e _ _ => e.prefixes.contains .lock
  | .vaesenclast e _ _ _ => forbiddenPrefix e
  | .aesimc e _ _ => e.prefixes.contains .lock
  | .vaesimc e _ _ _ => forbiddenPrefix e
  | .aeskeygenassist e _ _ _ => e.prefixes.contains .lock
  | .vaeskeygenassist e _ _ _ _ => forbiddenPrefix e

/-- The stored `VEX.vvvv` is not `1111b` where the row reserves it (R78). -/
def badVvvv : Instr → Bool
  | .aesdec _ _ _ => false
  | .vaesdec _ _ _ _ => false
  | .aesdeclast _ _ _ => false
  | .vaesdeclast _ _ _ _ => false
  | .aesenc _ _ _ => false
  | .vaesenc _ _ _ _ => false
  | .aesenclast _ _ _ => false
  | .vaesenclast _ _ _ _ => false
  | .aesimc _ _ _ => false
  | .vaesimc _ vvvv _ _ => vvvv != 0b1111#4
  | .aeskeygenassist _ _ _ _ => false
  | .vaeskeygenassist _ vvvv _ _ _ => vvvv != 0b1111#4

/-- Some cause of `#UD` holds (R184 to R186). -/
def udCause (c : Config) (i : Instr) : Bool :=
  (match instrForm i with
    | .legacy => !cpuidAes c || cr0Em c || !cr4Osfxsr c
    | .vex => !cpuidAes c || !cpuidAvx c || !cr4Osxsave c || !xcr0Sse c || !xcr0Avx c) ||
  badPrefix i || instrL i || badVvvv i

/-- `VEX.L = 1` with a round opcode on a part that gives it a meaning: the string the model refuses (R79). -/
def wide256 (c : Config) (i : Instr) : Bool := instrRoundVex i && instrL i && c.hasVaes256

/-- An outcome with its next state changed by `g`. -/
def mapOutcome (g : State → State) : Host.Outcome State Fault Refusal → Host.Outcome State Fault Refusal
  | .next s => .next (g s)
  | .fault f => .fault f
  | .refused r => .refused r

/-! ### What an operand holds -/

/-- The linear address of the memory form `a` in an instruction with these prefixes and this length (`20_memory.md` R44). -/
def operandAddress (s : State) (ps : List Prefix) (len : Nat) (a : Addr) : Word :=
  s.linear len (memOperand s.cfg.mode ps a)

/-- A displacement as a signed number (`30_encoding.md` R67: sign-extended). -/
def signedDisp : Disp → Int
  | .none => 0
  | .d8 d => d.toInt
  | .d32 d => d.toInt

/-- The base register's term of an address: the register's number value, or 0 (R44). -/
def baseValue (s : State) : Option GNum → Int
  | none => 0
  | some b => (s.x.get b).toNat

/-- The index register's term of an address: `x[index] * 2^scale`, or 0 (R44, R68). -/
def indexValue (s : State) (i : Option GNum) (scale : BitVec 2) : Int :=
  match i with
  | none => 0
  | some j => (s.x.get j).toNat * 2 ^ scale.toNat

/-- The linear address of a memory operand as a number, from the sum of its terms: the sum is cut to the address size, 32
bits in Mode32 and under a `67` prefix, and the segment base is added modulo 2^32 or 2^64 (R44). -/
def addressOfSum (s : State) (ps : List Prefix) (segBase : Word) (sum : Int) : Int :=
  (segBase.toNat + sum % (if s.cfg.mode = .mode32 ∨ .addrSize ∈ ps then 2 ^ 32 else 2 ^ 64)) %
    (if s.cfg.mode = .mode32 then 2 ^ 32 else 2 ^ 64)

/-- A 16-byte operand at a linear address passes steps 1 and 2 of R45. -/
def AddressOk (s : State) (f : Form) (linear : Word) : Prop :=
  (f = .legacy → linear.toNat % 16 = 0) ∧
  (s.cfg.mode = .mode64 → ∀ k < 16, canonical s.cfg.vaBits (operandByte s.cfg.mode linear k) = true) ∧
  (s.cfg.mode = .mode32 → ∀ k < 16, beyondLimit s.cfg (operandByte s.cfg.mode linear k) = false)

/-- The operand `src` can be read and holds `val`: a register's low 128 bits, or 16 bytes of memory, each of which has a
location, the lowest address in the least significant byte (R11, R42, R45). -/
def OperandHolds (s : State) (f : Form) (ps : List Prefix) (len : Nat) (src : RM) (val : Xmm) : Prop :=
  match src with
  | .reg j => val = s.xmm j
  | .mem a =>
    AddressOk s f (operandAddress s ps len a) ∧
    ∀ k < 16, ∃ p, translate s.cfg .read (operandByte s.cfg.mode (operandAddress s ps len a) k) = .location p ∧
      byteAt val k = s.mem.read p

/-- `ip + len` computed modulo 2^64 in Mode64 and modulo 2^32 in Mode32 (R27), as a number. -/
def advancedIp (s : State) (len : Nat) : Word :=
  BitVec.ofNat 64 ((s.ip.toNat + len) % (if s.cfg.mode = .mode32 then 2 ^ 32 else 2 ^ 64))

/-! ### The invariant -/

/-- What holds of every state of a run: memory is in its canonical form, every vector register has `VLMAX` bits (R20),
the program fits the address space and `ip` is in it or at its end, both below 2^32 in Mode32 (R27), and no fault has been
recorded (R34). -/
def State.Inv (s : State) : Prop :=
  s.mem.wf = true ∧
  (∀ i : VNum, (s.upper i).length = s.cfg.upperLanes) ∧
  (s.cfg.program.text.length < 2 ^ 64 ∧ s.textOffset ≤ s.cfg.program.text.length) ∧
  (s.cfg.mode = .mode32 → s.cfg.program.start.toNat < 2 ^ 32 ∧ s.ip.toNat < 2 ^ 32) ∧
  s.faultRecord = none

/-! ### Runs (R219) -/

/-- How a run of some number of steps stands. -/
inductive RunState where
  /-- the steps are done and the run goes on -/
  | running (s : State)
  /-- `ip` is at the end address: the only final state (R219 b) -/
  | final (s : State)
  /-- a fault, recorded in the state it left (R219 a, R181) -/
  | faulted (s : State) (f : Fault)
  /-- the model makes no statement (R219 c) -/
  | refused (s : State) (r : Refusal)
  deriving DecidableEq, Repr

/-- `k` steps of a run. -/
def run : Nat → State → RunState
  | 0, s => .running s
  | k + 1, s =>
    match step s with
    | .next t => run k t
    | .fault f => .faulted (s.recordFault f) f
    | .refused r => if r = .endOfRun then .final s else .refused s r

/-- A safe run reaches its end address (R219: "Only (b) is a final state"), also where R27 refuses the program and `ip`
already stands at its end address, by the model's choice (log 27). -/
def SafeRun (s : State) : Prop := ∃ k t, run k s = .final t

end Sys2Proof.Machine
end

