-- ==== Sys2Proof/Certificates/Slice0/Obligations.lean ====
section
/-!
DEFINITION. The statements for the provers. Each docstring names the rules of spec/ that the statement formalises.
-/

open Sys2Proof Sys2Proof.Machine

/-! ### Encoding -/

/-- Decode and encode agree: for every well-formed instruction of every family, in either mode, whatever bytes follow
(`30_encoding.md` R62 to R74). -/
def Obligations.DecodeOfEncode : Prop :=
  ∀ (m : Mode) (i : Instr) (rest : List Byte), i.wf m = true → decode m (encode i ++ rest) = .ok (i, rest)

/-- What the decoder accepts is a well-formed instruction of exactly the length it consumed, and nothing after those
bytes had a part in it (R62). -/
def Obligations.DecodedIsWellFormed : Prop :=
  ∀ (m : Mode) (bs : List Byte) (i : Instr) (rest : List Byte), decode m bs = .ok (i, rest) →
    i.wf m = true ∧
    ∃ front, bs = front ++ rest ∧ front.length = i.len ∧ ∀ rest', decode m (front ++ rest') = .ok (i, rest')

/-- No encoding is a proper beginning of another: a string cut short is reported as cut short (R62, "the decoder finds the
length by walking the string"). -/
def Obligations.EncodingIsPrefixFree : Prop :=
  ∀ (m : Mode) (i : Instr) (n : Nat), i.wf m = true → n < i.len →
    decode m ((encode i).take n) = .error .truncated

/-- The length of an instruction is that of its encoding: 5 to 15 bytes for a legacy form, 5 to 13 for a VEX form without a
forbidden prefix (R62). -/
def Obligations.EncodedLengthBounds : Prop :=
  ∀ (m : Mode) (i : Instr), i.wf m = true →
    (encode i).length = i.len ∧ 5 ≤ i.len ∧
    (instrForm i = .legacy → i.len ≤ 15) ∧ (instrForm i = .vex → badPrefix i = false → i.len ≤ 13)

/-- Every string that a row's match and mask select is an instruction of that row, whatever the free bits and the operand
bytes are (R73; Mode64; seven more bytes are enough for any operand). -/
def Obligations.MatchAndMaskSelectRow : Prop :=
  ∀ (p1 p2 : Byte) (tail : List Byte), 7 ≤ tail.length →
    (∃ e d src r, decode .mode64 (0x66 :: 0x0F :: 0x38 :: 0xDE :: tail) = .ok (.aesdec e d src, r)) ∧
    (∃ e d src r, decode .mode64 (0x66 :: 0x0F :: 0x38 :: 0xDF :: tail) = .ok (.aesdeclast e d src, r)) ∧
    (∃ e d src r, decode .mode64 (0x66 :: 0x0F :: 0x38 :: 0xDC :: tail) = .ok (.aesenc e d src, r)) ∧
    (∃ e d src r, decode .mode64 (0x66 :: 0x0F :: 0x38 :: 0xDD :: tail) = .ok (.aesenclast e d src, r)) ∧
    (∃ e d src r, decode .mode64 (0x66 :: 0x0F :: 0x38 :: 0xDB :: tail) = .ok (.aesimc e d src, r)) ∧
    (∃ e d src imm r, decode .mode64 (0x66 :: 0x0F :: 0x3A :: 0xDF :: tail) = .ok (.aeskeygenassist e d src imm, r)) ∧
    (p1 &&& 0x1F = 0x02 → p2 &&& 0x07 = 0x01 →
      (∃ e d a src r, decode .mode64 (0xC4 :: p1 :: p2 :: 0xDE :: tail) = .ok (.vaesdec e d a src, r)) ∧
      (∃ e d a src r, decode .mode64 (0xC4 :: p1 :: p2 :: 0xDF :: tail) = .ok (.vaesdeclast e d a src, r)) ∧
      (∃ e d a src r, decode .mode64 (0xC4 :: p1 :: p2 :: 0xDC :: tail) = .ok (.vaesenc e d a src, r)) ∧
      (∃ e d a src r, decode .mode64 (0xC4 :: p1 :: p2 :: 0xDD :: tail) = .ok (.vaesenclast e d a src, r))) ∧
    (p1 &&& 0x1F = 0x02 → p2 &&& 0x7F = 0x79 →
      ∃ e d src r, decode .mode64 (0xC4 :: p1 :: p2 :: 0xDB :: tail) = .ok (.vaesimc e 0b1111 d src, r)) ∧
    (p1 &&& 0x1F = 0x03 → p2 &&& 0x7F = 0x79 →
      ∃ e d src imm r, decode .mode64 (0xC4 :: p1 :: p2 :: 0xDF :: tail) = .ok (.vaeskeygenassist e 0b1111 d src imm, r))

/-- Strings that the spec gives no meaning are rejected, whatever follows. `ps` are the prefix bytes before the opcode and
`rex` a REX byte after them, or none (R63, R64, R65, R71, R72, R74, R80; I14, I15, I16). -/
def Obligations.OutsideStringsRejected : Prop :=
  ∀ (m : Mode) (ps : List Prefix) (rex bs : List Byte), (rex = [] ∨ ∃ b, isRex b = true ∧ rex = [b]) →
    -- a refused mode; a repeated kind of prefix, two segment overrides being one; `67` in Mode32
    (m.modelled = false → ∃ err, decode m bs = .error err) ∧
    (¬ (ps.map Prefix.kind).Nodup → ∃ err, decode m (ps.map prefixByte ++ bs) = .error err) ∧
    (.addrSize ∈ ps → ∃ err, decode .mode32 (ps.map prefixByte ++ bs) = .error err) ∧
    -- REX in Mode32; REX that is not the byte before the opcode
    (∀ b, isRex b = true → ∃ err, decode .mode32 (ps.map prefixByte ++ b :: bs) = .error err) ∧
    (∀ b b', isRex b = true → (isRex b' = true ∨ ∃ p, b' = prefixByte p) →
      ∃ err, decode m (ps.map prefixByte ++ b :: b' :: bs) = .error err) ∧
    -- no prefix, no REX byte, neither `0F` nor `C4`: among them the two-byte VEX prefix `C5`
    (∀ b, (∀ p, b ≠ prefixByte p) → isRex b = false → b ≠ 0x0F → b ≠ 0xC4 →
      ∃ err, decode m (ps.map prefixByte ++ (rex ++ b :: bs)) = .error err) ∧
    -- legacy: `F2` or `F3`; no `66`; another escape byte; an opcode byte that no row lists
    (.repne ∈ ps ∨ .rep ∈ ps ∨ .opSize ∉ ps →
      ∃ err, decode m (ps.map prefixByte ++ (rex ++ 0x0F :: bs)) = .error err) ∧
    (∀ esc : Byte, esc ≠ 0x38 → esc ≠ 0x3A →
      ∃ err, decode m (ps.map prefixByte ++ (rex ++ 0x0F :: esc :: bs)) = .error err) ∧
    (∀ op : Byte, op ≠ 0xDB → op ≠ 0xDC → op ≠ 0xDD → op ≠ 0xDE → op ≠ 0xDF →
      ∃ err, decode m (ps.map prefixByte ++ (rex ++ 0x0F :: 0x38 :: op :: bs)) = .error err) ∧
    (∀ op : Byte, op ≠ 0xDF → ∃ err, decode m (ps.map prefixByte ++ (rex ++ 0x0F :: 0x3A :: op :: bs)) = .error err) ∧
    -- VEX: LES in Mode32; another `pp`; another map; an opcode byte that no row lists
    (∀ p1 : Byte, p1.extractLsb' 6 2 ≠ 3#2 →
      ∃ err, decode .mode32 (ps.map prefixByte ++ (rex ++ 0xC4 :: p1 :: bs)) = .error err) ∧
    (∀ p1 p2 : Byte, p2.extractLsb' 0 2 ≠ 1#2 ∨ p1.extractLsb' 0 5 ≠ 2#5 ∧ p1.extractLsb' 0 5 ≠ 3#5 →
      ∃ err, decode m (ps.map prefixByte ++ (rex ++ 0xC4 :: p1 :: p2 :: bs)) = .error err) ∧
    (∀ p1 p2 op : Byte, p1.extractLsb' 0 5 = 2#5 → op ≠ 0xDB → op ≠ 0xDC → op ≠ 0xDD → op ≠ 0xDE → op ≠ 0xDF →
      ∃ err, decode m (ps.map prefixByte ++ (rex ++ 0xC4 :: p1 :: p2 :: op :: bs)) = .error err) ∧
    (∀ p1 p2 op : Byte, p1.extractLsb' 0 5 = 3#5 → op ≠ 0xDF →
      ∃ err, decode m (ps.map prefixByte ++ (rex ++ 0xC4 :: p1 :: p2 :: op :: bs)) = .error err) ∧
    -- Mode32: `P2[6] = 0` with an opcode byte whose `vvvv` is an operand
    (∀ p1 p2 op : Byte, p2.getLsbD 6 = false → p1.extractLsb' 0 5 = 2#5 → op ≠ 0xDB →
      ∃ err, decode .mode32 (ps.map prefixByte ++ (rex ++ 0xC4 :: p1 :: p2 :: op :: bs)) = .error err)

/-- Words written out from R70 and R75 decode to the instructions those rules read from them. -/
def Obligations.SpecWordsDecode : Prop :=
  decode .mode64 [0x66, 0x45, 0x0F, 0x38, 0xDE, 0xCA] = .ok (.aesdec ⟨[.opSize], some false⟩ 9 (.reg 10), []) ∧
  decode .mode64 [0x66, 0x0F, 0x38, 0xDE, 0x4C, 0x8B, 0x10] =
    .ok (.aesdec ⟨[.opSize], none⟩ 1 (.mem (.sib 3 (some 1) 2 (.d8 0x10))), []) ∧
  decode .mode32 [0x66, 0x0F, 0x38, 0xDE, 0x0D, 0x00, 0x10, 0x00, 0x00] =
    .ok (.aesdec ⟨[.opSize], none⟩ 1 (.mem (.abs 0x1000)), []) ∧
  decode .mode64 [0xC4, 0x82, 0x01, 0xDE, 0x4C, 0xC8, 0x04] =
    .ok (.vaesdec ⟨[], none, false, false⟩ 1 15 (.mem (.sib 8 (some 9) 3 (.d8 4))), []) ∧
  decode .mode64 [0xC4, 0x43, 0x79, 0xDF, 0xE5, 0xFF] =
    .ok (.vaeskeygenassist ⟨[], none, false, false⟩ 0b1111 12 (.reg 13) 0xFF, []) ∧
  decode .mode64 [0xC4, 0xE2, 0x09, 0xDB, 0xCA] =
    .ok (.vaesimc ⟨[], none, false, false⟩ 0b0001 1 (.reg 2), [])

/-- `VEX.W` is ignored: a string and the same string with the other `W` are the same instruction with the same behaviour,
whatever prefix bytes, and REX byte or none, stand before `C4` (R77). -/
def Obligations.VexWIsIgnored : Prop :=
  ∀ (m : Mode) (ps : List Prefix) (rex : List Byte) (p1 p2 op : Byte) (tail : List Byte) (i : Instr) (r : List Byte),
    (rex = [] ∨ ∃ b, isRex b = true ∧ rex = [b]) →
    decode m (ps.map prefixByte ++ (rex ++ 0xC4 :: p1 :: p2 :: op :: tail)) = .ok (i, r) →
    ∃ i', decode m (ps.map prefixByte ++ (rex ++ 0xC4 :: p1 :: (p2 ^^^ 0x80) :: op :: tail)) = .ok (i', r) ∧
      i'.len = i.len ∧ instrDest i' = instrDest i ∧ instrSrc i' = instrSrc i ∧ ∀ s, exec i' s = exec i s

/-! ### Fetch and step -/

/-- A step runs the decoded instruction: nothing stands between `exec` and the state that `step` answers (R41, R219), where
no fault is recorded and the program stands away from R27's edges (`placementOpen` is false). At a non-canonical `ip`, and
across 2^64 - 2^47 or 2^64, which R27 leaves open, this is the model's choice (log 12, DESIGN CHOICE). -/
def Obligations.StepRunsDecodedInstruction : Prop :=
  ∀ (s : State) (i : Instr) (rest : List Byte), s.faultRecord = none → s.cfg.mode.modelled = true →
    s.textOffset < s.cfg.program.text.length →
    placementOpen s.cfg = false → decode s.cfg.mode s.window.1 = .ok (i, rest) → step s = exec i s

/-- The machine runs its program: where the text at `ip` begins with the encoding of a well-formed instruction of at most
15 bytes that can be fetched, the step is that instruction's meaning (R41, R43, R62, R219). The premises are that no fault
is recorded and that the program stands away from R27's edges (`placementOpen` is false). That the model fetches at a
non-canonical `ip`, and runs on across 2^64 - 2^47 or 2^64, is the model's choice, which R27 leaves open (log 12, DESIGN
CHOICE). -/
def Obligations.StepRunsEncodedInstruction : Prop :=
  ∀ (s : State) (i : Instr) (before after : List Byte), s.faultRecord = none → i.wf s.cfg.mode = true → i.len ≤ 15 →
    s.cfg.program.text = before ++ (encode i ++ after) → (s.ip - s.cfg.program.start).toNat = before.length →
    placementOpen s.cfg = false →
    (∀ k < i.len, ∃ p, translate s.cfg .fetch (s.ip + BitVec.ofNat 64 k) = .location p) →
    step s = exec i s

/-- An instruction of more than 15 bytes raises `#GP(0)` (R62, R189 c), whatever its own causes of `#UD` (R193), where no
fault is recorded and `placementOpen` is false. At a non-canonical `ip`, and across 2^64 - 2^47 or 2^64, which R27 leaves
open, this is the model's choice (log 12). -/
def Obligations.LongInstructionFaults : Prop :=
  ∀ (s : State) (i : Instr) (before after : List Byte), s.faultRecord = none → i.wf s.cfg.mode = true → 15 < i.len →
    s.cfg.program.text = before ++ (encode i ++ after) → (s.ip - s.cfg.program.start).toNat = before.length →
    placementOpen s.cfg = false →
    (∀ k < 15, ∃ p, translate s.cfg .fetch (s.ip + BitVec.ofNat 64 k) = .location p) →
    step s = .fault (.generalProtection s.ip)

/-- A page fault on the fetch of one of the instruction's first 15 bytes comes before everything else (R191, R193), where no
fault is recorded and `placementOpen` is false. At a non-canonical `ip`, and across 2^64 - 2^47 or 2^64, which R27 leaves
open, this is the model's choice (log 12). Two further parts are the model's choice: the reported address is the first failing byte's (log 10), and the page fault comes before
the `#GP(0)` of an instruction of more than 15 bytes, which R193 leaves unordered (log 17). -/
def Obligations.FetchPageFault : Prop :=
  ∀ (s : State) (i : Instr) (before after : List Byte) (k : Nat) (code : BitVec 32), s.faultRecord = none →
    i.wf s.cfg.mode = true → k < i.len → k < 15 →
    s.cfg.program.text = before ++ (encode i ++ after) → (s.ip - s.cfg.program.start).toNat = before.length →
    placementOpen s.cfg = false →
    (∀ j < k, ∃ p, translate s.cfg .fetch (s.ip + BitVec.ofNat 64 j) = .location p) →
    translate s.cfg .fetch (s.ip + BitVec.ofNat 64 k) = .pageFault code →
    step s = .fault (.pageFault s.ip code (s.ip + BitVec.ofNat 64 k))

/-! ### The invariant, frames, runs -/

/-- The invariant holds of the state after reset (R33, R34). -/
def Obligations.ResetMeetsInvariant : Prop := State.reset.Inv

/-- Every step keeps the invariant: memory canonical, registers of `VLMAX` bits, the program of fewer than 2^64 bytes with
`ip` within it (both below 2^32 in Mode32), no fault recorded (R20, R22, R23, R27, R31). That `ip` wraps modulo 2^64 at the
top of the address space in Mode64 is the model's choice (log 12). -/
def Obligations.StepKeepsInvariant : Prop :=
  ∀ s t : State, s.Inv → step s = .next t → t.Inv

/-- The frame of all twelve instructions: only the destination register, `ip` and the model's counter change; `ip` advances
by the encoded length; every byte of memory reads as before (R24, R26 to R29, R31, R40). -/
def Obligations.ExecFrame : Prop :=
  ∀ (i : Instr) (s t : State), exec i s = .next t →
    (∀ j, j ≠ instrDest i → t.v.get j = s.v.get j) ∧ t.ip = advancedIp s i.len ∧ t.x = s.x ∧ t.cfg = s.cfg ∧
    t.rflags = s.rflags ∧ t.mxcsr = s.mxcsr ∧ t.faultRecord = s.faultRecord ∧ t.freeCounter = s.freeCounter + 1 ∧
    ∀ p, t.mem.read p = s.mem.read p

/-- No step changes memory, a general register, the configuration, the flags or the fault record; at most one vector
register changes, and `ip` moves on by 5 to 15 (R26 to R29, R31, R53, R62). -/
def Obligations.StepFrame : Prop :=
  ∀ s t : State, step s = .next t →
    (∀ p, t.mem.read p = s.mem.read p) ∧ t.x = s.x ∧ t.cfg = s.cfg ∧ t.rflags = s.rflags ∧ t.mxcsr = s.mxcsr ∧
    t.faultRecord = s.faultRecord ∧ (∃ d : VNum, ∀ j, j ≠ d → t.v.get j = s.v.get j) ∧
    ∃ n, 5 ≤ n ∧ n ≤ 15 ∧ t.ip = advancedIp s n

/-- Every run ends: a program of `n` bytes takes at most `n / 5` steps, since control always passes to the next
instruction (R27, R219). A program across 2^64, where `ip` wraps by the model's choice (log 12), is among them. -/
def Obligations.RunsEnd : Prop :=
  ∀ (s : State) (k : Nat), s.Inv → s.cfg.program.text.length < 5 * k → ∀ t, run k s ≠ .running t

/-- A faulted run: the fault names the instruction at which it was raised, the state is the one before that instruction with
the fault recorded, and no further step is taken (R180, R181, `93_implementation_defined.md` I21). -/
def Obligations.FaultedRunIsRecorded : Prop :=
  ∀ (s t : State) (k : Nat) (f : Fault), s.faultRecord = none → run k s = .faulted t f →
    f.at = t.ip ∧ t.faultRecord = some f ∧ step t = .fault f ∧
    ∃ j u, j < k ∧ run j s = .running u ∧ step u = .fault f ∧ t = u.recordFault f

/-- The only final state has `ip` at the end address, just past the program's last byte, modulo 2^64 (R219, R27). That a
program which R27 refuses is final where `ip` already stands at its end address is the model's choice (log 27, DESIGN
CHOICE). -/
def Obligations.FinalStateIsAtEnd : Prop :=
  ∀ (s t : State) (k : Nat), run k s = .final t →
    t.ip = t.cfg.program.start + BitVec.ofNat 64 t.cfg.program.text.length ∧ t.cfg = s.cfg ∧ step t = .refused .endOfRun

/-! ### What each instruction does -/

/-- `AESDEC` and `VAESDEC` complete on every readable operand, with the result of their rules (R120, R121). -/
def Obligations.AesdecResult : Prop :=
  (∀ (e : LegEnc) (d : VNum) (src : RM) (key : Xmm) (s : State), s.cfg.mode.modelled = true →
    enabledLegacy s.cfg = true → e.prefixes.contains .lock = false →
    OperandHolds s .legacy e.prefixes (Instr.aesdec e d src).len src key →
    exec (.aesdec e d src) s = .next { s with
      v := s.v.set d.val
        { xmm := invMixColumns (invSubBytes (invShiftRows (s.xmm d))) ^^^ key, upper := s.upper d }
      ip := advancedIp s (Instr.aesdec e d src).len
      freeCounter := s.freeCounter + 1 }) ∧
  (∀ (e : VexEnc) (d a : VNum) (src : RM) (key : Xmm) (s : State), s.cfg.mode.modelled = true →
    enabledVex s.cfg = true → forbiddenPrefix e = false → e.l = false →
    OperandHolds s .vex e.prefixes (Instr.vaesdec e d a src).len src key →
    exec (.vaesdec e d a src) s = .next { s with
      v := s.v.set d.val
        { xmm := invMixColumns (invSubBytes (invShiftRows (s.xmm a))) ^^^ key
          upper := List.replicate s.cfg.upperLanes 0 }
      ip := advancedIp s (Instr.vaesdec e d a src).len
      freeCounter := s.freeCounter + 1 })

/-- `AESDECLAST` and `VAESDECLAST` (R130, R131). -/
def Obligations.AesdeclastResult : Prop :=
  (∀ (e : LegEnc) (d : VNum) (src : RM) (key : Xmm) (s : State), s.cfg.mode.modelled = true →
    enabledLegacy s.cfg = true → e.prefixes.contains .lock = false →
    OperandHolds s .legacy e.prefixes (Instr.aesdeclast e d src).len src key →
    exec (.aesdeclast e d src) s = .next { s with
      v := s.v.set d.val { xmm := invSubBytes (invShiftRows (s.xmm d)) ^^^ key, upper := s.upper d }
      ip := advancedIp s (Instr.aesdeclast e d src).len
      freeCounter := s.freeCounter + 1 }) ∧
  (∀ (e : VexEnc) (d a : VNum) (src : RM) (key : Xmm) (s : State), s.cfg.mode.modelled = true →
    enabledVex s.cfg = true → forbiddenPrefix e = false → e.l = false →
    OperandHolds s .vex e.prefixes (Instr.vaesdeclast e d a src).len src key →
    exec (.vaesdeclast e d a src) s = .next { s with
      v := s.v.set d.val
        { xmm := invSubBytes (invShiftRows (s.xmm a)) ^^^ key, upper := List.replicate s.cfg.upperLanes 0 }
      ip := advancedIp s (Instr.vaesdeclast e d a src).len
      freeCounter := s.freeCounter + 1 })

/-- `AESENC` and `VAESENC` (R140, R141). -/
def Obligations.AesencResult : Prop :=
  (∀ (e : LegEnc) (d : VNum) (src : RM) (key : Xmm) (s : State), s.cfg.mode.modelled = true →
    enabledLegacy s.cfg = true → e.prefixes.contains .lock = false →
    OperandHolds s .legacy e.prefixes (Instr.aesenc e d src).len src key →
    exec (.aesenc e d src) s = .next { s with
      v := s.v.set d.val { xmm := mixColumns (subBytes (shiftRows (s.xmm d))) ^^^ key, upper := s.upper d }
      ip := advancedIp s (Instr.aesenc e d src).len
      freeCounter := s.freeCounter + 1 }) ∧
  (∀ (e : VexEnc) (d a : VNum) (src : RM) (key : Xmm) (s : State), s.cfg.mode.modelled = true →
    enabledVex s.cfg = true → forbiddenPrefix e = false → e.l = false →
    OperandHolds s .vex e.prefixes (Instr.vaesenc e d a src).len src key →
    exec (.vaesenc e d a src) s = .next { s with
      v := s.v.set d.val
        { xmm := mixColumns (subBytes (shiftRows (s.xmm a))) ^^^ key, upper := List.replicate s.cfg.upperLanes 0 }
      ip := advancedIp s (Instr.vaesenc e d a src).len
      freeCounter := s.freeCounter + 1 })

/-- `AESENCLAST` and `VAESENCLAST` (R150, R151). -/
def Obligations.AesenclastResult : Prop :=
  (∀ (e : LegEnc) (d : VNum) (src : RM) (key : Xmm) (s : State), s.cfg.mode.modelled = true →
    enabledLegacy s.cfg = true → e.prefixes.contains .lock = false →
    OperandHolds s .legacy e.prefixes (Instr.aesenclast e d src).len src key →
    exec (.aesenclast e d src) s = .next { s with
      v := s.v.set d.val { xmm := subBytes (shiftRows (s.xmm d)) ^^^ key, upper := s.upper d }
      ip := advancedIp s (Instr.aesenclast e d src).len
      freeCounter := s.freeCounter + 1 }) ∧
  (∀ (e : VexEnc) (d a : VNum) (src : RM) (key : Xmm) (s : State), s.cfg.mode.modelled = true →
    enabledVex s.cfg = true → forbiddenPrefix e = false → e.l = false →
    OperandHolds s .vex e.prefixes (Instr.vaesenclast e d a src).len src key →
    exec (.vaesenclast e d a src) s = .next { s with
      v := s.v.set d.val
        { xmm := subBytes (shiftRows (s.xmm a)) ^^^ key, upper := List.replicate s.cfg.upperLanes 0 }
      ip := advancedIp s (Instr.vaesenclast e d a src).len
      freeCounter := s.freeCounter + 1 })

/-- `AESIMC` and `VAESIMC`: the destination is written only (R160, R161). -/
def Obligations.AesimcResult : Prop :=
  (∀ (e : LegEnc) (d : VNum) (src : RM) (val : Xmm) (s : State), s.cfg.mode.modelled = true →
    enabledLegacy s.cfg = true → e.prefixes.contains .lock = false →
    OperandHolds s .legacy e.prefixes (Instr.aesimc e d src).len src val →
    exec (.aesimc e d src) s = .next { s with
      v := s.v.set d.val { xmm := invMixColumns val, upper := s.upper d }
      ip := advancedIp s (Instr.aesimc e d src).len
      freeCounter := s.freeCounter + 1 }) ∧
  (∀ (e : VexEnc) (d : VNum) (src : RM) (val : Xmm) (s : State), s.cfg.mode.modelled = true →
    enabledVex s.cfg = true → forbiddenPrefix e = false → e.l = false →
    OperandHolds s .vex e.prefixes (Instr.vaesimc e 0b1111 d src).len src val →
    exec (.vaesimc e 0b1111 d src) s = .next { s with
      v := s.v.set d.val { xmm := invMixColumns val, upper := List.replicate s.cfg.upperLanes 0 }
      ip := advancedIp s (Instr.vaesimc e 0b1111 d src).len
      freeCounter := s.freeCounter + 1 })

/-- `AESKEYGENASSIST` and `VAESKEYGENASSIST`, doubleword by doubleword (R170, R171). -/
def Obligations.AeskeygenassistResult : Prop :=
  ∀ (d : VNum) (src : RM) (imm : Byte) (val r : Xmm) (s : State), s.cfg.mode.modelled = true →
    dwordAt r 0 = subWord (dwordAt val 1) → dwordAt r 1 = rotWord (subWord (dwordAt val 1)) ^^^ imm.setWidth 32 →
    dwordAt r 2 = subWord (dwordAt val 3) → dwordAt r 3 = rotWord (subWord (dwordAt val 3)) ^^^ imm.setWidth 32 →
    (∀ e : LegEnc, enabledLegacy s.cfg = true → e.prefixes.contains .lock = false →
      OperandHolds s .legacy e.prefixes (Instr.aeskeygenassist e d src imm).len src val →
      exec (.aeskeygenassist e d src imm) s = .next { s with
        v := s.v.set d.val { xmm := r, upper := s.upper d }
        ip := advancedIp s (Instr.aeskeygenassist e d src imm).len
        freeCounter := s.freeCounter + 1 }) ∧
    (∀ e : VexEnc, enabledVex s.cfg = true → forbiddenPrefix e = false → e.l = false →
      OperandHolds s .vex e.prefixes (Instr.vaeskeygenassist e 0b1111 d src imm).len src val →
      exec (.vaeskeygenassist e 0b1111 d src imm) s = .next { s with
        v := s.v.set d.val { xmm := r, upper := List.replicate s.cfg.upperLanes 0 }
        ip := advancedIp s (Instr.vaeskeygenassist e 0b1111 d src imm).len
        freeCounter := s.freeCounter + 1 })

/-- Bits VLMAX-1:128 of the destination keep their old value in all six legacy instructions (R22). -/
def Obligations.LegacyKeepsUpperBits : Prop :=
  ∀ (i : Instr) (s t : State), instrForm i = .legacy → exec i s = .next t →
    t.upper (instrDest i) = s.upper (instrDest i) ∧
    ∀ k, 128 ≤ k → k < vlmax s.cfg → t.vbit (instrDest i) k = s.vbit (instrDest i) k

/-- Bits VLMAX-1:128 of the destination become zero in all six VEX instructions; no other register's upper bits change, and
the upper bits of the registers are not read (R23). -/
def Obligations.VexZeroesUpperBits : Prop :=
  ∀ (i : Instr) (s t : State), instrForm i = .vex → exec i s = .next t →
    (∀ k, 128 ≤ k → k < vlmax s.cfg → t.vbit (instrDest i) k = false) ∧
    (∀ j, j ≠ instrDest i → t.upper j = s.upper j) ∧
    ∀ w : Vector VReg 16, (∀ j : VNum, (w.get j).xmm = s.xmm j) →
      ∃ t', exec i { s with v := w } = .next t' ∧ ∀ j, t'.xmm j = t.xmm j

/-- The legacy and the VEX form of an operation compute the same low 128 bits from the same state, operand and immediate
(R123, and R160 to R171 for the key instructions). -/
def Obligations.FormsAgreeOnLowBits : Prop :=
  ∀ (e : LegEnc) (e' : VexEnc) (d j : VNum) (imm : Byte) (s t t' : State),
    (exec (.aesdec e d (.reg j)) s = .next t → exec (.vaesdec e' d d (.reg j)) s = .next t' → t.xmm d = t'.xmm d) ∧
    (exec (.aesdeclast e d (.reg j)) s = .next t → exec (.vaesdeclast e' d d (.reg j)) s = .next t' →
      t.xmm d = t'.xmm d) ∧
    (exec (.aesenc e d (.reg j)) s = .next t → exec (.vaesenc e' d d (.reg j)) s = .next t' → t.xmm d = t'.xmm d) ∧
    (exec (.aesenclast e d (.reg j)) s = .next t → exec (.vaesenclast e' d d (.reg j)) s = .next t' →
      t.xmm d = t'.xmm d) ∧
    (exec (.aesimc e d (.reg j)) s = .next t → exec (.vaesimc e' 0b1111 d (.reg j)) s = .next t' →
      t.xmm d = t'.xmm d) ∧
    (exec (.aeskeygenassist e d (.reg j) imm) s = .next t →
      exec (.vaeskeygenassist e' 0b1111 d (.reg j) imm) s = .next t' → t.xmm d = t'.xmm d)

/-- No instruction reads or writes a bit of the flags register or of `MXCSR`: with other contents in both, the outcome is
the same with those contents (R28). -/
def Obligations.FlagsTakeNoPart : Prop :=
  ∀ (i : Instr) (s : State) (flags : Word) (csr : BitVec 32),
    exec i { s with rflags := flags, mxcsr := csr } =
      mapOutcome (fun t => { t with rflags := flags, mxcsr := csr }) (exec i s) ∧
    ∀ t, exec i s = .next t → t.rflags = s.rflags ∧ t.mxcsr = s.mxcsr

/-! ### Faults -/

/-- Legacy forms raise `#UD` when the AES flag is clear, `CR0.EM = 1` or `CR4.OSFXSR = 0` (R184). -/
def Obligations.LegacyInvalidOpcode : Prop :=
  ∀ (i : Instr) (s : State), instrForm i = .legacy → s.cfg.mode.modelled = true →
    (s.cfg.cpuid1Ecx.getLsbD 25 = false ∨ s.cfg.cr0.getLsbD 2 = true ∨ s.cfg.cr4.getLsbD 9 = false) →
    exec i s = .fault (.invalidOpcode s.ip)

/-- VEX forms raise `#UD` when a CPUID flag is clear, `CR4.OSXSAVE = 0` or `XCR0[2:1]` is not `11b`; `CR0.EM` and
`CR4.OSFXSR` are not consulted; other modes are refused (R185). -/
def Obligations.VexInvalidOpcode : Prop :=
  ∀ (i : Instr) (s : State), instrForm i = .vex →
    (s.cfg.mode.modelled = true →
      (s.cfg.cpuid1Ecx.getLsbD 25 = false ∨ s.cfg.cpuid1Ecx.getLsbD 28 = false ∨ s.cfg.cr4.getLsbD 18 = false ∨
        s.cfg.xcr0.extractLsb' 1 2 ≠ 0b11#2) →
      exec i s = .fault (.invalidOpcode s.ip)) ∧
    (s.cfg.mode.modelled = false → exec i s = .refused (.modeNotInScope s.cfg.mode)) ∧
    ∀ c0 c4 : Word, c0.getLsbD 3 = s.cfg.cr0.getLsbD 3 → c4.getLsbD 18 = s.cfg.cr4.getLsbD 18 →
      exec i { s with cfg := { s.cfg with cr0 := c0, cr4 := c4 } } =
        mapOutcome (fun t => { t with cfg := { s.cfg with cr0 := c0, cr4 := c4 } }) (exec i s)

/-- The encoding causes of `#UD`: LOCK on any form; `66`, `F2`, `F3` or REX before a VEX prefix; `VEX.L = 1`, R79 apart;
`VEX.vvvv` other than `1111b` where it is reserved (R186). -/
def Obligations.EncodingInvalidOpcode : Prop :=
  ∀ (i : Instr) (s : State), s.cfg.mode.modelled = true →
    (badPrefix i = true → exec i s = .fault (.invalidOpcode s.ip)) ∧
    (instrL i = true → wide256 s.cfg i = false → exec i s = .fault (.invalidOpcode s.ip)) ∧
    (badVvvv i = true → exec i s = .fault (.invalidOpcode s.ip))

/-- `VEX.L = 1`: `#UD` on a part without 256-bit forms; on a part with them `#UD` for the two key instructions and, where
the forms are enabled and no prefix is forbidden, a refusal for the round instructions (R79). -/
def Obligations.VexLengthBit : Prop :=
  ∀ (i : Instr) (s : State), s.cfg.mode.modelled = true → instrL i = true →
    (s.cfg.hasVaes256 = false → exec i s = .fault (.invalidOpcode s.ip)) ∧
    (s.cfg.hasVaes256 = true → instrRoundVex i = false → exec i s = .fault (.invalidOpcode s.ip)) ∧
    (s.cfg.hasVaes256 = true → instrRoundVex i = true → enabledVex s.cfg = true → badPrefix i = false →
      exec i s = .refused .vaes256)

/-- `VAESIMC` and `VAESKEYGENASSIST` raise `#UD` when the stored field `P2[6:3]` is not `1111b`, whatever the operands and
the other `#UD` causes are (R163, R173). -/
def Obligations.ReservedVvvv : Prop :=
  (∀ (e : VexEnc) (vvvv : BitVec 4) (d : VNum) (src : RM) (imm : Byte) (s : State), s.cfg.mode.modelled = true →
    vvvv ≠ 0b1111#4 →
    exec (.vaesimc e vvvv d src) s = .fault (.invalidOpcode s.ip) ∧
    exec (.vaeskeygenassist e vvvv d src imm) s = .fault (.invalidOpcode s.ip)) ∧
  (∀ (m : Mode) (ps : List Prefix) (rex : List Byte) (p1 p2 op : Byte) (tail : List Byte) (e : VexEnc) (vvvv : BitVec 4)
    (d : VNum) (src : RM) (imm : Byte) (r : List Byte), (rex = [] ∨ ∃ b, isRex b = true ∧ rex = [b]) →
    (decode m (ps.map prefixByte ++ (rex ++ 0xC4 :: p1 :: p2 :: op :: tail)) = .ok (.vaesimc e vvvv d src, r) →
      vvvv = p2.extractLsb' 3 4) ∧
    (decode m (ps.map prefixByte ++ (rex ++ 0xC4 :: p1 :: p2 :: op :: tail)) =
        .ok (.vaeskeygenassist e vvvv d src imm, r) →
      vvvv = p2.extractLsb' 3 4))

/-- `#NM` when `CR0.TS = 1`, after every cause of `#UD` (R187). -/
def Obligations.DeviceNotAvailable : Prop :=
  ∀ (i : Instr) (s : State), s.cfg.mode.modelled = true → s.cfg.cr0.getLsbD 3 = true →
    (udCause s.cfg i = false → exec i s = .fault (.deviceNotAvailable s.ip)) ∧
    (udCause s.cfg i = true → wide256 s.cfg i = false → exec i s = .fault (.invalidOpcode s.ip))

/-- A legacy form with a memory operand that is not 16-byte aligned (and in range) raises `#GP(0)` (R46, R189 a). -/
def Obligations.MisalignedLegacyFaults : Prop :=
  ∀ (i : Instr) (a : Addr) (s : State), instrForm i = .legacy → s.cfg.mode.modelled = true →
    enabledLegacy s.cfg = true → badPrefix i = false → instrSrc i = .mem a →
    (operandAddress s (instrPrefixes i) i.len a).toNat % 16 ≠ 0 →
    AddressOk s .vex (operandAddress s (instrPrefixes i) i.len a) →
    exec i s = .fault (.generalProtection s.ip)

/-- An operand one of whose bytes is non-canonical (Mode64) or beyond the limit that `Translate` reports (Mode32) raises
`#SS(0)` through SS and `#GP(0)` through another segment; where a legacy form is misaligned as well, the order of the two
checks is open and only the two faults' names are at stake (R45, R189 b, R190, I10). -/
def Obligations.OutOfRangeFaults : Prop :=
  ∀ (i : Instr) (a : Addr) (s : State) (k : Nat), s.cfg.mode.modelled = true → enabled (instrForm i) s.cfg = true →
    udCause s.cfg i = false → instrSrc i = .mem a → k < 16 →
    ((s.cfg.mode = .mode64 ∧ canonical s.cfg.vaBits
        (operandByte s.cfg.mode (operandAddress s (instrPrefixes i) i.len a) k) = false) ∨
      (s.cfg.mode = .mode32 ∧ beyondLimit s.cfg
        (operandByte s.cfg.mode (operandAddress s (instrPrefixes i) i.len a) k) = true)) →
    ((memOperand s.cfg.mode (instrPrefixes i) a).seg ≠ .ss → exec i s = .fault (.generalProtection s.ip)) ∧
    ((memOperand s.cfg.mode (instrPrefixes i) a).seg = .ss →
      misaligned (instrForm i) (operandAddress s (instrPrefixes i) i.len a) = false →
      exec i s = .fault (.stackFault s.ip)) ∧
    ((memOperand s.cfg.mode (instrPrefixes i) a).seg = .ss →
      exec i s = .fault (.stackFault s.ip) ∨ exec i s = .fault (.generalProtection s.ip))

/-- An operand that passes the address checks and has a byte whose translation fails raises `#PF` with the code and the
address of one of the failing bytes (R45, R47, R191). -/
def Obligations.OperandPageFault : Prop :=
  ∀ (i : Instr) (a : Addr) (s : State) (k : Nat) (code : BitVec 32), s.cfg.mode.modelled = true →
    enabled (instrForm i) s.cfg = true → udCause s.cfg i = false → instrSrc i = .mem a →
    AddressOk s (instrForm i) (operandAddress s (instrPrefixes i) i.len a) → k < 16 →
    translate s.cfg .read (operandByte s.cfg.mode (operandAddress s (instrPrefixes i) i.len a) k) = .pageFault code →
    ∃ k' < 16, ∃ code',
      translate s.cfg .read (operandByte s.cfg.mode (operandAddress s (instrPrefixes i) i.len a) k') =
        .pageFault code' ∧
      exec i s = .fault (.pageFault s.ip code'
        (operandByte s.cfg.mode (operandAddress s (instrPrefixes i) i.len a) k'))

/-- An operand that reaches a device, with no failing byte, is refused (R48, I20). -/
def Obligations.DeviceOperandRefused : Prop :=
  ∀ (i : Instr) (a : Addr) (s : State) (k : Nat), s.cfg.mode.modelled = true →
    enabled (instrForm i) s.cfg = true → udCause s.cfg i = false → instrSrc i = .mem a →
    AddressOk s (instrForm i) (operandAddress s (instrPrefixes i) i.len a) → k < 16 →
    translate s.cfg .read (operandByte s.cfg.mode (operandAddress s (instrPrefixes i) i.len a) k) = .device →
    (∀ k' < 16, ∀ code, translate s.cfg .read
      (operandByte s.cfg.mode (operandAddress s (instrPrefixes i) i.len a) k') ≠ .pageFault code) →
    ∃ addr, exec i s = .refused (.device .read addr)

/-- What a fault records: the address of the instruction, its vector and its error code; `exec` raises the five faults
of R182 and no other (R182, R192). -/
def Obligations.FaultRecordValues : Prop :=
  (∀ (i : Instr) (s : State) (f : Fault), exec i s = .fault f →
    f.at = s.ip ∧
    (f = .invalidOpcode s.ip ∧ f.vector = 6 ∧ f.errorCode = none ∨
      f = .deviceNotAvailable s.ip ∧ f.vector = 7 ∧ f.errorCode = none ∨
      f = .stackFault s.ip ∧ f.vector = 12 ∧ f.errorCode = some 0 ∨
      f = .generalProtection s.ip ∧ f.vector = 13 ∧ f.errorCode = some 0 ∨
      ∃ code addr, f = .pageFault s.ip code addr ∧ f.vector = 14 ∧ f.errorCode = some code)) ∧
  ∀ (s : State) (f : Fault), s.faultRecord = none → step s = .fault f → f.at = s.ip

/-- Whether an instruction faults, and with what, is a function of its bytes, the configuration and the address of its memory
operand, never of register or memory contents (R192). `freeCounter` is the model's index of open choices (log 21). -/
def Obligations.FaultsIndependentOfData : Prop :=
  ∀ (i : Instr) (s s' : State), s'.cfg = s.cfg → s'.ip = s.ip → s'.freeCounter = s.freeCounter →
    (∀ a, instrSrc i = .mem a →
      operandAddress s' (instrPrefixes i) i.len a = operandAddress s (instrPrefixes i) i.len a) →
    (∀ f, exec i s = .fault f ↔ exec i s' = .fault f) ∧
    (∀ r, exec i s = .refused r ↔ exec i s' = .refused r) ∧
    ((∃ t, exec i s = .next t) ↔ ∃ t', exec i s' = .next t')

/-! ### Operands -/

/-- The one data access of an instruction: with memory that agrees on the located bytes of its memory operand, or with any
memory where the operand is a register, the outcome is the same (R40). -/
def Obligations.OnlyOperandBytesAreRead : Prop :=
  ∀ (i : Instr) (s : State) (m : Memory),
    (∀ a, instrSrc i = .mem a → ∀ k < 16, ∀ p,
      translate s.cfg .read (operandByte s.cfg.mode (operandAddress s (instrPrefixes i) i.len a) k) = .location p →
      m.read p = s.mem.read p) →
    exec i { s with mem := m } = mapOutcome (fun t => { t with mem := m }) (exec i s)

/-- A read is little-endian: byte `k` of the value is the byte at address `addr + k`, the lowest address in bits 7:0 and
`addr + 15` in bits 127:120 (R42); past the top of the linear space the address wraps, a deduction (log 11). -/
def Obligations.ReadIsLittleEndian : Prop :=
  ∀ (s : State) (f : Form) (seg : Seg) (addr : Word) (val : Xmm), s.memRead f seg addr = .ok val →
    (∀ k < 16, byteAt val k = s.byteAtLinear (wrapLinear s.cfg.mode (addr + BitVec.ofNat 64 k))) ∧
    val.extractLsb' 0 8 = s.byteAtLinear (wrapLinear s.cfg.mode addr) ∧
    val.extractLsb' 120 8 = s.byteAtLinear (wrapLinear s.cfg.mode (addr + 15))

/-- The address of a memory operand, as numbers. Of any record: the sum of its terms modulo `2^asize`, and the segment base
added modulo 2^64 or 2^32 (R44). Of every addressing form, with its prefixes, in either mode: the terms are those of
R67 and R68, displacements signed, and the address size is 32 bits in Mode32 and under `67` (R63). -/
def Obligations.AddressFormula : Prop :=
  (∀ (s : State) (len : Nat) (o : MemOperand),
    ((s.effective len o).toNat : Int) =
      ((if o.ripRel then (s.nextIp len).toNat
        else match o.base with
          | none => 0
          | some b => (s.x.get b).toNat : Nat) +
        (match o.index with
          | none => 0
          | some i => (s.x.get i).toNat * 2 ^ o.scale.toNat : Nat) +
        o.disp.toInt) % (if o.narrow then 2 ^ 32 else 2 ^ 64) ∧
    (s.linear len o).toNat =
      ((segBaseOf s.cfg o.seg).toNat + (s.effective len o).toNat) %
        (if s.cfg.mode = .mode32 then 2 ^ 32 else 2 ^ 64)) ∧
  ∀ (s : State) (len : Nat) (ps : List Prefix) (b : GNum) (i : Option GNum) (scale : BitVec 2) (disp : Disp)
    (d : BitVec 32),
    ((operandAddress s ps len (.ripRel d)).toNat : Int) =
      addressOfSum s ps (segBaseOf s.cfg (memOperand s.cfg.mode ps (.ripRel d)).seg) ((advancedIp s len).toNat + d.toInt) ∧
    ((operandAddress s ps len (.abs d)).toNat : Int) =
      addressOfSum s ps (segBaseOf s.cfg (memOperand s.cfg.mode ps (.abs d)).seg) d.toInt ∧
    ((operandAddress s ps len (.base b disp)).toNat : Int) =
      addressOfSum s ps (segBaseOf s.cfg (memOperand s.cfg.mode ps (.base b disp)).seg)
        (baseValue s (some b) + signedDisp disp) ∧
    ((operandAddress s ps len (.sib b i scale disp)).toNat : Int) =
      addressOfSum s ps (segBaseOf s.cfg (memOperand s.cfg.mode ps (.sib b i scale disp)).seg)
        (baseValue s (some b) + indexValue s i scale + signedDisp disp) ∧
    ((operandAddress s ps len (.sibNoBase i scale d)).toNat : Int) =
      addressOfSum s ps (segBaseOf s.cfg (memOperand s.cfg.mode ps (.sibNoBase i scale d)).seg)
        (indexValue s i scale + d.toInt)

/-- Segments: with no override among the prefixes, SS for a base register 4 or 5 and DS for every other base and for the
forms without a base; an override replaces it, wherever it stands. In Mode64 FS and GS have their bases and the others
none; in Mode32 every segment has its base (R44, R63, R68). -/
def Obligations.SegmentRules : Prop :=
  (∀ (m : Mode) (ps : List Prefix), (∀ g, .seg g ∉ ps) →
    ∀ (b : GNum) (i : Option GNum) (scale : BitVec 2) (disp : Disp) (d : BitVec 32),
      (memOperand m ps (.base b disp)).seg = (if b = 4 ∨ b = 5 then .ss else .ds) ∧
      (memOperand m ps (.sib b i scale disp)).seg = (if b = 4 ∨ b = 5 then .ss else .ds) ∧
      (memOperand m ps (.ripRel d)).seg = .ds ∧ (memOperand m ps (.abs d)).seg = .ds ∧
      (memOperand m ps (.sibNoBase i scale d)).seg = .ds) ∧
  (∀ (m : Mode) (a : Addr) (ps qs : List Prefix) (g : Seg), (∀ g', .seg g' ∉ ps) →
    (memOperand m (ps ++ .seg g :: qs) a).seg = g) ∧
  (∀ c : Config, c.mode = .mode64 →
    segBaseOf c .fs = c.segBase.fs ∧ segBaseOf c .gs = c.segBase.gs ∧
    segBaseOf c .cs = 0 ∧ segBaseOf c .ds = 0 ∧ segBaseOf c .es = 0 ∧ segBaseOf c .ss = 0) ∧
  (∀ c : Config, c.mode = .mode32 →
    segBaseOf c .fs = c.segBase.fs ∧ segBaseOf c .gs = c.segBase.gs ∧ segBaseOf c .cs = c.segBase.cs ∧
    segBaseOf c .ds = c.segBase.ds ∧ segBaseOf c .es = c.segBase.es ∧ segBaseOf c .ss = c.segBase.ss)

/-! ### The AES transformations -/

/-- The worked values of the field arithmetic (R101). -/
def Obligations.FieldArithmeticValues : Prop :=
  gmul 0x57 0x02 = 0xAE ∧ gmul 0x57 0x13 = 0xFE ∧ gmul 0x57 0x83 = 0xC1 ∧ gmul 0x80 0x02 = 0x1B ∧
  gmul 0xFF 0xFF = 0x13 ∧ gmul 0x53 0xCA = 0x01 ∧
  [0x57, 0xAE, 0x47, 0x8E, 0x80, 0x7F, 0xFF, 0x00].map xtime = [0xAE, 0x47, 0x8E, 0x07, 0x1B, 0xFE, 0xE5, 0x00]

/-- Multiplication distributes over XOR in both arguments and commutes (R101). -/
def Obligations.FieldArithmeticLaws : Prop :=
  ∀ a b c : Byte, gmul (a ^^^ b) c = gmul a c ^^^ gmul b c ∧ gmul a (b ^^^ c) = gmul a b ^^^ gmul a c ∧
    gmul a b = gmul b a

/-- The S-box table is the affine map of the multiplicative inverse, with `inv(0) = 0`, and a bijection (R102). -/
def Obligations.SboxIsAffineOfInverse : Prop :=
  (∀ a b : Byte, (a = 0 ∧ b = 0) ∨ gmul a b = 1 → sbox a = affine b) ∧
  (∀ a : Byte, ∃ b, (a = 0 ∧ b = 0) ∨ gmul a b = 1) ∧ Function.Bijective sbox ∧
  (∀ (b : Byte) (i : Nat), i < 8 → (affine b).getLsbD i =
    (b.getLsbD i ^^ b.getLsbD ((i + 4) % 8) ^^ b.getLsbD ((i + 5) % 8) ^^ b.getLsbD ((i + 6) % 8) ^^
      b.getLsbD ((i + 7) % 8) ^^ (0x63#8).getLsbD i)) ∧
  sbox 0x53 = 0xED ∧ sbox 0x00 = 0x63 ∧ sbox 0xFF = 0x16

/-- The inverse S-box table is the inverse of the S-box (R103). -/
def Obligations.InverseSbox : Prop :=
  (∀ a : Byte, invSbox (sbox a) = a ∧ sbox (invSbox a) = a) ∧ invSbox 0x00 = 0x52 ∧ invSbox 0x63 = 0x00 ∧
  invSbox 0xED = 0x53

/-- `SubBytes` and `InvSubBytes` act on each byte (R104). -/
def Obligations.SubBytesBytewise : Prop :=
  (∀ (v : Xmm) (i : Nat), i < 16 →
    byteAt (subBytes v) i = sbox (byteAt v i) ∧ byteAt (invSubBytes v) i = invSbox (byteAt v i)) ∧
  subBytes 0x0F0E0D0C0B0A09080706050403020100 = 0x76ABD7FE2B670130C56F6BF27B777C63 ∧
  invSubBytes 0x0F0E0D0C0B0A09080706050403020100 = 0xFBD7F3819EA340BF38A53630D56A0952

/-- `ShiftRows` rotates row `r` left by `r` columns, a byte permutation that leaves row 0 (R105); `InvShiftRows` rotates
right and is its inverse (R106). -/
def Obligations.RowShifts : Prop :=
  (∀ (v : Xmm) (r c : Nat), r < 4 → c < 4 →
    cell (shiftRows v) r c = cell v r ((c + r) % 4) ∧ cell (invShiftRows v) r ((c + r) % 4) = cell v r c) ∧
  (∀ (v : Xmm) (i : Nat), i < 16 →
    byteAt (shiftRows v) i = byteAt v ([0, 5, 10, 15, 4, 9, 14, 3, 8, 13, 2, 7, 12, 1, 6, 11].getD i 0) ∧
    byteAt (invShiftRows v) i = byteAt v ([0, 13, 10, 7, 4, 1, 14, 11, 8, 5, 2, 15, 12, 9, 6, 3].getD i 0)) ∧
  (∀ v : Xmm, invShiftRows (shiftRows v) = v ∧ shiftRows (invShiftRows v) = v) ∧
  shiftRows 0x0F0E0D0C0B0A09080706050403020100 = 0x0B06010C07020D08030E09040F0A0500 ∧
  invShiftRows 0x0F0E0D0C0B0A09080706050403020100 = 0x0306090C0F0205080B0E0104070A0D00

/-- `MixColumns` and `InvMixColumns` on each column, with the worked values, and that they are inverse to each other (R107,
R108, R112). -/
def Obligations.ColumnMixes : Prop :=
  (∀ (v : Xmm) (c : Nat), c < 4 →
    cell (mixColumns v) 0 c =
      gmul (cell v 0 c) 0x02 ^^^ gmul (cell v 1 c) 0x03 ^^^ cell v 2 c ^^^ cell v 3 c ∧
    cell (mixColumns v) 1 c =
      cell v 0 c ^^^ gmul (cell v 1 c) 0x02 ^^^ gmul (cell v 2 c) 0x03 ^^^ cell v 3 c ∧
    cell (mixColumns v) 2 c =
      cell v 0 c ^^^ cell v 1 c ^^^ gmul (cell v 2 c) 0x02 ^^^ gmul (cell v 3 c) 0x03 ∧
    cell (mixColumns v) 3 c =
      gmul (cell v 0 c) 0x03 ^^^ cell v 1 c ^^^ cell v 2 c ^^^ gmul (cell v 3 c) 0x02) ∧
  (∀ (v : Xmm) (c : Nat), c < 4 →
    cell (invMixColumns v) 0 c =
      gmul (cell v 0 c) 0x0E ^^^ gmul (cell v 1 c) 0x0B ^^^ gmul (cell v 2 c) 0x0D ^^^ gmul (cell v 3 c) 0x09 ∧
    cell (invMixColumns v) 1 c =
      gmul (cell v 0 c) 0x09 ^^^ gmul (cell v 1 c) 0x0E ^^^ gmul (cell v 2 c) 0x0B ^^^ gmul (cell v 3 c) 0x0D ∧
    cell (invMixColumns v) 2 c =
      gmul (cell v 0 c) 0x0D ^^^ gmul (cell v 1 c) 0x09 ^^^ gmul (cell v 2 c) 0x0E ^^^ gmul (cell v 3 c) 0x0B ∧
    cell (invMixColumns v) 3 c =
      gmul (cell v 0 c) 0x0B ^^^ gmul (cell v 1 c) 0x0D ^^^ gmul (cell v 2 c) 0x09 ^^^ gmul (cell v 3 c) 0x0E) ∧
  (∀ v : Xmm, invMixColumns (mixColumns v) = v ∧ mixColumns (invMixColumns v) = v) ∧
  mixColumns 0xC6C6C6C6010101015C220AF2455313DB = 0xC6C6C6C6010101019D58DC9FBCA14D8E ∧
  mixColumns 0x0F0E0D0C0B0A09080706050403020100 = 0x090C0B0E0D080F0A0104030605000702 ∧
  invMixColumns 0xC6C6C6C6010101019D58DC9FBCA14D8E = 0xC6C6C6C6010101015C220AF2455313DB ∧
  invMixColumns 0x0F0E0D0C0B0A09080706050403020100 = 0x0104030605000702090C0B0E0D080F0A ∧
  invMixColumns 0x48692853686179295B477565726F6E5D = 0x597F8DF109EFAA15F39BC5A119D859B6

/-- `SubWord` acts on each byte in place; `RotWord` rotates right by 8 bits (R109, R110). -/
def Obligations.WordFunctions : Prop :=
  (∀ (x : Dword) (i : Nat), i < 4 → (subWord x).extractLsb' (8 * i) 8 = sbox (x.extractLsb' (8 * i) 8)) ∧
  (∀ x : Dword, rotWord x = x.rotateRight 8) ∧
  subWord 0x00102030 = 0x63CAB704 ∧ subWord 0x3C4FCF09 = 0xEB848A01 ∧ rotWord 0x12345678 = 0x78123456 ∧
  rotWord 0x3C4FCF09 = 0x093C4FCF ∧ rotWord (subWord 0x3C4FCF09) = 0x01EB848A

/-- The laws of R112, all four items: each inverse transformation undoes its transformation and is undone by it; byte
substitution commutes with the row shifts; the row shifts and column mixes are linear over XOR and keep 0, which byte
substitution does not; the column mixes fix a state whose columns hold equal bytes. -/
def Obligations.TransformationLaws : Prop :=
  (∀ a : Xmm, invShiftRows (shiftRows a) = a ∧ shiftRows (invShiftRows a) = a ∧
    invSubBytes (subBytes a) = a ∧ subBytes (invSubBytes a) = a ∧
    invMixColumns (mixColumns a) = a ∧ mixColumns (invMixColumns a) = a) ∧
  (∀ a : Xmm, subBytes (shiftRows a) = shiftRows (subBytes a) ∧
    invSubBytes (invShiftRows a) = invShiftRows (invSubBytes a) ∧
    subBytes (invShiftRows a) = invShiftRows (subBytes a) ∧
    invSubBytes (shiftRows a) = shiftRows (invSubBytes a)) ∧
  (∀ a b : Xmm, mixColumns (a ^^^ b) = mixColumns a ^^^ mixColumns b ∧
    invMixColumns (a ^^^ b) = invMixColumns a ^^^ invMixColumns b ∧
    shiftRows (a ^^^ b) = shiftRows a ^^^ shiftRows b ∧
    invShiftRows (a ^^^ b) = invShiftRows a ^^^ invShiftRows b) ∧
  (mixColumns 0 = 0 ∧ invMixColumns 0 = 0 ∧ shiftRows 0 = 0 ∧ invShiftRows 0 = 0) ∧
  (subBytes 0 = 0x63636363636363636363636363636363 ∧ invSubBytes 0 = 0x52525252525252525252525252525252) ∧
  (∀ a : Xmm, (∀ c < 4, ∀ r < 4, cell a r c = cell a 0 c) → mixColumns a = a ∧ invMixColumns a = a)

/-- The identities of the round functions (R123, R132, R142). -/
def Obligations.RoundIdentities : Prop :=
  ∀ s k k' a b : Xmm,
    aesDec s k = aesImc (aesDecLast s 0) ^^^ k ∧
    aesDec s k ^^^ aesDec s k' = k ^^^ k' ∧
    aesEncLast (mixColumns (aesDec s k ^^^ k)) 0 = s ∧
    aesDecLast (aesEncLast a 0) b = a ^^^ b ∧
    aesEncLast (aesDecLast a 0) b = a ^^^ b ∧
    aesEnc s k = mixColumns (aesEncLast s 0) ^^^ k ∧
    aesImc (aesEnc s 0) = aesEncLast s 0 ∧
    aesDecLast (aesImc (aesEnc s k ^^^ k)) 0 = s

/-- The Equivalent Inverse Cipher: with any number of rounds and any round keys, the decryption flow of the instructions,
whose inner keys went through `AESIMC`, in reverse order, undoes the encryption flow (R122, R132, R142, R162). -/
def Obligations.EquivalentInverseCipher : Prop :=
  ∀ (first last : Xmm) (inner : List Xmm) (block : Xmm),
    aesDecLast
      (((inner.map aesImc).reverse).foldl aesDec
        (aesEncLast (inner.foldl aesEnc (block ^^^ first)) last ^^^ last)) first = block

/-- `AESKEYGENASSIST` does not depend on doublewords 0 and 2 of its source, and its immediate reaches only bits 39:32 and
103:96 (R69, R170). -/
def Obligations.KeygenDependence : Prop :=
  (∀ (x y : Xmm) (imm : Byte), dwordAt x 1 = dwordAt y 1 → dwordAt x 3 = dwordAt y 3 →
    aesKeygen x imm = aesKeygen y imm) ∧
  (∀ (x : Xmm) (imm : Byte), aesKeygen x imm =
    aesKeygen x 0 ^^^ (imm.setWidth 128 <<< 32) ^^^ (imm.setWidth 128 <<< 96))

/-! ### Reset and boot -/

/-- The state after reset: the values that R33 gives, and none of the twelve instructions executes there, since the mode is
one the spec refuses (R33, R34; what an unlisted byte of memory reads as is the model's choice, log 6). -/
def Obligations.ResetValues : Prop :=
  State.reset.cfg.mode = .realAddress ∧ State.reset.cfg.cr0 = 0x60000010 ∧ State.reset.cfg.cr4 = 0 ∧
  State.reset.cfg.xcr0 = 1 ∧ State.reset.cfg.segBase.cs = 0xFFFF0000 ∧ State.reset.ip = 0xFFF0 ∧
  (∀ (i : VNum) (k : Nat), State.reset.vbit i k = false) ∧
  (∀ i : GNum, i ≠ 2 → State.reset.x.get i = 0) ∧
  State.reset.faultRecord = none ∧ (∀ p, State.reset.mem.read p = unlistedByte) ∧
  ∀ i : Instr, exec i State.reset = .refused (.modeNotInScope .realAddress)

/-- `CPUID.(EAX=01H):ECX` bit 27 mirrors `CR4.OSXSAVE` in every state. After the enabling sequence of R211, on a part with
both CPUID flags, both forms are enabled, and software finds the flags that item 1 asks for (R188, R211). That the
sequence enters 64-bit mode and not protected mode is the model's choice (log 1). -/
def Obligations.BootEnables : Prop :=
  (∀ c : Config, (cpuidEcx c).getLsbD 27 = c.cr4.getLsbD 18 ∧
    ∀ k, k ≠ 27 → (cpuidEcx c).getLsbD k = c.cpuid1Ecx.getLsbD k) ∧
  ∀ s : State, s.cfg.cpuid1Ecx.getLsbD 25 = true → s.cfg.cpuid1Ecx.getLsbD 28 = true →
    s.boot.cfg.mode = .mode64 ∧ enabledLegacy s.boot.cfg = true ∧ enabledVex s.boot.cfg = true ∧
    cpuidFinds .legacy s.boot.cfg = true ∧ cpuidFinds .vex s.boot.cfg = true ∧
    s.boot.cfg.xcr0.extractLsb' 0 3 = 0b111#3
end

