-- ==== Sys2Proof/Laws/Aes.lean ====
section
/-!
SUPPORT. Bytes of 128-bit values, and the constant multiples that the column steps use.
-/

namespace Sys2Proof.Machine

/-- Bit `k` of the first `n` bytes packed. -/
theorem getLsbD_packUpTo (f : Nat → Byte) (n k : Nat) (hn : n ≤ 16) :
    (packUpTo f n).getLsbD k = (decide (k < 8 * n) && (f (k / 8)).getLsbD (k % 8)) := by
  induction n with
  | zero => simp [packUpTo]
  | succ n ih =>
    simp only [packUpTo, BitVec.getLsbD_or, BitVec.getLsbD_shiftLeft, BitVec.getLsbD_setWidth, ih (by omega)]
    by_cases h1 : k < 8 * n
    · simp [h1, show k < 8 * (n + 1) by omega]
    · by_cases h2 : k < 8 * (n + 1)
      · have hq : k / 8 = n := by omega
        have hr : k - 8 * n = k % 8 := by omega
        simp [h1, h2, hq, hr, show k < 128 by omega, show k % 8 < 128 by omega]
      · have : 8 ≤ k - 8 * n := by omega
        simp [h1, h2, BitVec.getLsbD_of_ge _ _ this]

/-- Byte `i` of a packed value is the `i`-th byte packed. -/
theorem byteAt_packBytes (f : Nat → Byte) {i : Nat} (h : i < 16) : byteAt (packBytes f) i = f i := by
  apply BitVec.eq_of_getLsbD_eq
  intro j hj
  simp only [byteAt, packBytes, BitVec.getLsbD_extractLsb', getLsbD_packUpTo f 16 _ (le_refl _)]
  simp [hj, show 8 * i + j < 128 by omega, show (8 * i + j) / 8 = i by omega, show (8 * i + j) % 8 = j by omega]

/-- Two values with the same sixteen bytes are equal. -/
theorem eq_of_byteAt {a b : Xmm} (h : ∀ i < 16, byteAt a i = byteAt b i) : a = b := by
  ext k hk
  have := congrArg (fun w : Byte => w.getLsbD (k % 8)) (h (k / 8) (by omega))
  simp only [byteAt, BitVec.getLsbD_extractLsb', Nat.mod_lt k (show 0 < 8 by decide), decide_true, Bool.true_and,
    Nat.div_add_mod] at this
  exact this

/-- A value is the packing of its bytes. -/
theorem packBytes_byteAt (v : Xmm) : packBytes (byteAt v) = v :=
  eq_of_byteAt fun _ h => byteAt_packBytes _ h

/-- Cell `(r, c)` of a value built from cells. -/
theorem cell_ofCells (f : Nat → Nat → Byte) {r c : Nat} (hr : r < 4) (hc : c < 4) : cell (ofCells f) r c = f r c := by
  unfold cell ofCells
  rw [byteAt_packBytes _ (by omega)]
  congr 1 <;> omega

/-- Two values with the same sixteen cells are equal. -/
theorem eq_of_cell {a b : Xmm} (h : ∀ r < 4, ∀ c < 4, cell a r c = cell b r c) : a = b := by
  refine eq_of_byteAt fun i hi => ?_
  have := h (i % 4) (by omega) (i / 4) (by omega)
  simpa only [cell, Nat.mod_add_div] using this

@[simp] theorem byteAt_xor (a b : Xmm) (i : Nat) : byteAt (a ^^^ b) i = byteAt a i ^^^ byteAt b i := by
  simp [byteAt, BitVec.extractLsb'_xor]

@[simp] theorem cell_xor (a b : Xmm) (r c : Nat) : cell (a ^^^ b) r c = cell a r c ^^^ cell b r c := byteAt_xor a b _

theorem gmul_01 (a : Byte) : gmul a 0x01 = a := by simp [gmul, gmulBits, xtimes]
theorem gmul_02 (a : Byte) : gmul a 0x02 = xtime a := by simp [gmul, gmulBits, xtimes]
theorem gmul_03 (a : Byte) : gmul a 0x03 = a ^^^ xtime a := by simp [gmul, gmulBits, xtimes]
theorem gmul_09 (a : Byte) : gmul a 0x09 = a ^^^ xtimes 3 a := by simp [gmul, gmulBits, xtimes]
theorem gmul_0B (a : Byte) : gmul a 0x0B = a ^^^ xtime a ^^^ xtimes 3 a := by simp [gmul, gmulBits, xtimes]
theorem gmul_0D (a : Byte) : gmul a 0x0D = a ^^^ xtimes 2 a ^^^ xtimes 3 a := by simp [gmul, gmulBits, xtimes]
theorem gmul_0E (a : Byte) : gmul a 0x0E = xtime a ^^^ xtimes 2 a ^^^ xtimes 3 a := by
  simp [gmul, gmulBits, xtimes]

end Sys2Proof.Machine
end

