-- ==== Sys2Proof/Laws/Memory.lean ====
section
/-!
SUPPORT. Memory: a read after a write, and that every operation keeps the canonical form.
-/

namespace Sys2Proof.Machine

@[simp] theorem read_nil (p : Nat) : Memory.read [] p = unlistedByte := rfl

@[simp] theorem read_cons (c : Host.Cell) (t : Memory) (p : Nat) :
    Memory.read (c :: t) p = if c.1 = p then c.2 else Memory.read t p := rfl

@[simp] theorem wf_nil : Memory.wf [] = true := rfl

theorem wf_cons {c : Host.Cell} {t : Memory} :
    Memory.wf (c :: t) = true ↔ c.2 ≠ unlistedByte ∧ (∀ d ∈ t, c.1 < d.1) ∧ Memory.wf t = true := by
  simp [Memory.wf, and_assoc]

/-- An address below every listed one is unlisted. -/
theorem read_below {m : Memory} {p : Nat} (h : ∀ d ∈ m, p < d.1) : m.read p = unlistedByte := by
  induction m with
  | nil => rfl
  | cons c t ih =>
    have hc := h c (by simp)
    simp only [read_cons, Nat.ne_of_gt hc, if_false]
    exact ih fun d hd => h d (by simp [hd])

/-- A read after a write: the value at the address written, the old value everywhere else. -/
theorem read_write {m : Memory} (hm : m.wf = true) (p q : Nat) (b : Byte) :
    (m.write p b).read q = if p = q then b else m.read q := by
  induction m with
  | nil =>
    unfold Memory.write
    split_ifs <;> simp_all
  | cons c t ih =>
    obtain ⟨-, hlt, ht⟩ := wf_cons.mp hm
    unfold Memory.write
    by_cases h1 : p < c.1
    · have hb : Memory.read (c :: t) p = unlistedByte := by
        refine read_below fun d hd => ?_
        rcases List.mem_cons.mp hd with rfl | hd
        · exact h1
        · exact lt_trans h1 (hlt d hd)
      simp only [h1, if_true]
      by_cases hu : b = unlistedByte
      · simp only [hu, if_true]
        split_ifs with hq
        · rw [← hq, hb]
        · rfl
      · simp only [hu, if_false]
        rw [read_cons]
    · simp only [h1, if_false]
      by_cases h2 : p = c.1
      · have hb : Memory.read t p = unlistedByte := read_below fun d hd => h2 ▸ hlt d hd
        simp only [h2, if_true] at hb ⊢
        by_cases hu : b = unlistedByte
        · simp only [hu, if_true, read_cons]
          split_ifs with hq
          · rw [← hq, hb]
          · rfl
        · simp only [hu, if_false, read_cons]
          split_ifs <;> simp_all
      · simp only [h2, if_false, read_cons, ih ht]
        split_ifs <;> simp_all

/-- What a write lists was listed, or is the address written. -/
theorem mem_write {m : Memory} {p : Nat} {b : Byte} {d : Host.Cell} (h : d ∈ m.write p b) : d ∈ m ∨ d = (p, b) := by
  induction m with
  | nil =>
    unfold Memory.write at h
    split_ifs at h <;> simp_all
  | cons c t ih =>
    unfold Memory.write at h
    split_ifs at h
    · exact .inl h
    · rcases List.mem_cons.mp h with h | h
      · exact .inr h
      · exact .inl h
    · exact .inl (by simp [h])
    · rcases List.mem_cons.mp h with h | h
      · exact .inr h
      · exact .inl (by simp [h])
    · rcases List.mem_cons.mp h with h | h
      · exact .inl (by simp [h])
      · rcases ih h with h | h
        · exact .inl (by simp [h])
        · exact .inr h

/-- A write keeps the canonical form. -/
theorem write_wf {m : Memory} (hm : m.wf = true) (p : Nat) (b : Byte) : (m.write p b).wf = true := by
  induction m with
  | nil =>
    unfold Memory.write
    split_ifs with h
    · rfl
    · simp [wf_cons, h]
  | cons c t ih =>
    obtain ⟨hc, hlt, ht⟩ := wf_cons.mp hm
    unfold Memory.write
    split_ifs with h1 h2 h3 h4
    · exact hm
    · refine wf_cons.mpr ⟨h2, fun d hd => ?_, hm⟩
      rcases List.mem_cons.mp hd with rfl | hd
      · exact h1
      · exact lt_trans h1 (hlt d hd)
    · exact ht
    · exact wf_cons.mpr ⟨h4, fun d hd => h3 ▸ hlt d hd, ht⟩
    · refine wf_cons.mpr ⟨hc, fun d hd => ?_, ih ht⟩
      rcases mem_write hd with hd | rfl
      · exact hlt d hd
      · show c.1 < p
        omega

/-- Writing bytes in a row keeps the canonical form. -/
theorem writeBytes_wf {m : Memory} (hm : m.wf = true) (p : Nat) (bs : List Byte) : (m.writeBytes p bs).wf = true := by
  induction bs generalizing m p with
  | nil => exact hm
  | cons b bs ih => exact ih (write_wf hm p b) (p + 1)

end Sys2Proof.Machine
end

