-- ==== Sys2Proof/Laws/State.lean ====
section
/-!
SUPPORT. What each update of a state does to each field, and register reads after register writes.
-/

namespace Sys2Proof.Machine

section Fields
variable (s : State) (d i : VNum) (r : Xmm) (len : Nat) (f : Fault) (t : List Byte)

@[simp] theorem writeLegacy_cfg : (s.writeLegacy d r).cfg = s.cfg := rfl
@[simp] theorem writeLegacy_x : (s.writeLegacy d r).x = s.x := rfl
@[simp] theorem writeLegacy_ip : (s.writeLegacy d r).ip = s.ip := rfl
@[simp] theorem writeLegacy_rflags : (s.writeLegacy d r).rflags = s.rflags := rfl
@[simp] theorem writeLegacy_mxcsr : (s.writeLegacy d r).mxcsr = s.mxcsr := rfl
@[simp] theorem writeLegacy_mem : (s.writeLegacy d r).mem = s.mem := rfl
@[simp] theorem writeLegacy_faultRecord : (s.writeLegacy d r).faultRecord = s.faultRecord := rfl
@[simp] theorem writeLegacy_freeCounter : (s.writeLegacy d r).freeCounter = s.freeCounter := rfl
theorem writeLegacy_v : (s.writeLegacy d r).v = s.v.set d.val { xmm := r, upper := s.upper d } := rfl

@[simp] theorem writeVex_cfg : (s.writeVex d r).cfg = s.cfg := rfl
@[simp] theorem writeVex_x : (s.writeVex d r).x = s.x := rfl
@[simp] theorem writeVex_ip : (s.writeVex d r).ip = s.ip := rfl
@[simp] theorem writeVex_rflags : (s.writeVex d r).rflags = s.rflags := rfl
@[simp] theorem writeVex_mxcsr : (s.writeVex d r).mxcsr = s.mxcsr := rfl
@[simp] theorem writeVex_mem : (s.writeVex d r).mem = s.mem := rfl
@[simp] theorem writeVex_faultRecord : (s.writeVex d r).faultRecord = s.faultRecord := rfl
@[simp] theorem writeVex_freeCounter : (s.writeVex d r).freeCounter = s.freeCounter := rfl
theorem writeVex_v : (s.writeVex d r).v =
    s.v.set d.val { xmm := r, upper := List.replicate s.cfg.upperLanes 0 } := rfl

@[simp] theorem complete_cfg : (s.complete len).cfg = s.cfg := rfl
@[simp] theorem complete_v : (s.complete len).v = s.v := rfl
@[simp] theorem complete_x : (s.complete len).x = s.x := rfl
@[simp] theorem complete_ip : (s.complete len).ip = s.nextIp len := rfl
@[simp] theorem complete_rflags : (s.complete len).rflags = s.rflags := rfl
@[simp] theorem complete_mxcsr : (s.complete len).mxcsr = s.mxcsr := rfl
@[simp] theorem complete_mem : (s.complete len).mem = s.mem := rfl
@[simp] theorem complete_faultRecord : (s.complete len).faultRecord = s.faultRecord := rfl
@[simp] theorem complete_freeCounter : (s.complete len).freeCounter = s.freeCounter + 1 := rfl
@[simp] theorem complete_xmm : (s.complete len).xmm i = s.xmm i := rfl
@[simp] theorem complete_upper : (s.complete len).upper i = s.upper i := rfl

@[simp] theorem recordFault_cfg : (s.recordFault f).cfg = s.cfg := rfl
@[simp] theorem recordFault_v : (s.recordFault f).v = s.v := rfl
@[simp] theorem recordFault_x : (s.recordFault f).x = s.x := rfl
@[simp] theorem recordFault_ip : (s.recordFault f).ip = s.ip := rfl
@[simp] theorem recordFault_rflags : (s.recordFault f).rflags = s.rflags := rfl
@[simp] theorem recordFault_mxcsr : (s.recordFault f).mxcsr = s.mxcsr := rfl
@[simp] theorem recordFault_mem : (s.recordFault f).mem = s.mem := rfl
@[simp] theorem recordFault_faultRecord : (s.recordFault f).faultRecord = some f := rfl
@[simp] theorem recordFault_freeCounter : (s.recordFault f).freeCounter = s.freeCounter := rfl

@[simp] theorem boot_mode : s.boot.cfg.mode = .mode64 := rfl
@[simp] theorem boot_v : s.boot.v = s.v := rfl
@[simp] theorem boot_x : s.boot.x = s.x := rfl
@[simp] theorem boot_ip : s.boot.ip = s.ip := rfl
@[simp] theorem boot_rflags : s.boot.rflags = s.rflags := rfl
@[simp] theorem boot_mxcsr : s.boot.mxcsr = s.mxcsr := rfl
@[simp] theorem boot_mem : s.boot.mem = s.mem := rfl
@[simp] theorem boot_faultRecord : s.boot.faultRecord = s.faultRecord := rfl
@[simp] theorem boot_freeCounter : s.boot.freeCounter = s.freeCounter := rfl

@[simp] theorem loadAtIp_program : (s.loadAtIp t).cfg.program = { start := s.ip, text := t } := rfl
@[simp] theorem loadAtIp_mode : (s.loadAtIp t).cfg.mode = s.cfg.mode := rfl
@[simp] theorem loadAtIp_v : (s.loadAtIp t).v = s.v := rfl
@[simp] theorem loadAtIp_x : (s.loadAtIp t).x = s.x := rfl
@[simp] theorem loadAtIp_ip : (s.loadAtIp t).ip = s.ip := rfl
@[simp] theorem loadAtIp_rflags : (s.loadAtIp t).rflags = s.rflags := rfl
@[simp] theorem loadAtIp_mxcsr : (s.loadAtIp t).mxcsr = s.mxcsr := rfl
@[simp] theorem loadAtIp_mem : (s.loadAtIp t).mem = s.mem := rfl
@[simp] theorem loadAtIp_faultRecord : (s.loadAtIp t).faultRecord = s.faultRecord := rfl
@[simp] theorem loadAtIp_freeCounter : (s.loadAtIp t).freeCounter = s.freeCounter := rfl

end Fields

section Registers
variable (s : State) (d i : VNum) (r : Xmm)

/-- Reading `xmm<i>` after a legacy write of `xmm<d>`. -/
@[simp] theorem writeLegacy_xmm : (s.writeLegacy d r).xmm i = if d = i then r else s.xmm i := by
  unfold State.xmm State.writeLegacy
  simp only [Vector.get_eq_getElem, Vector.getElem_set, Fin.val_inj]
  split <;> rfl

/-- A legacy write leaves bits VLMAX-1:128 of every register. -/
@[simp] theorem writeLegacy_upper : (s.writeLegacy d r).upper i = s.upper i := by
  unfold State.upper State.writeLegacy
  simp only [Vector.get_eq_getElem, Vector.getElem_set, Fin.val_inj]
  split
  · next h => subst h; rfl
  · rfl

/-- Reading `xmm<i>` after a VEX write of `xmm<d>`. -/
@[simp] theorem writeVex_xmm : (s.writeVex d r).xmm i = if d = i then r else s.xmm i := by
  unfold State.xmm State.writeVex
  simp only [Vector.get_eq_getElem, Vector.getElem_set, Fin.val_inj]
  split <;> rfl

/-- A VEX write zeroes bits VLMAX-1:128 of its destination and no others. -/
@[simp] theorem writeVex_upper : (s.writeVex d r).upper i =
    if d = i then List.replicate s.cfg.upperLanes 0 else s.upper i := by
  unfold State.upper State.writeVex
  simp only [Vector.get_eq_getElem, Vector.getElem_set, Fin.val_inj]
  split <;> rfl

end Registers

/-- A register is its low 128 bits and its upper lanes. -/
theorem VReg.ext_parts {a b : VReg} (h : a.xmm = b.xmm) (h' : a.upper = b.upper) : a = b := by
  cases a; cases b; simp_all

end Sys2Proof.Machine
end

