-- ==== Sys2Proof/Laws/Ops.lean ====
section
/-!
SUPPORT. One lemma per shared operation: what it did, if it went on.
-/

namespace Sys2Proof.Machine

/-! ### Widths and addresses -/

@[simp] theorem wrapLinear_mode64 (a : Word) : wrapLinear .mode64 a = a := rfl

/-- In Mode32 an address is cut to 32 bits. -/
theorem wrapLinear_mode32_toNat (a : Word) : (wrapLinear .mode32 a).toNat = a.toNat % 2 ^ 32 := by
  simp only [wrapLinear, BitVec.toNat_setWidth]
  omega

/-- Outside Mode32 an address has all its 64 bits. -/
theorem wrapLinear_of_ne {m : Mode} (h : m ≠ .mode32) (a : Word) : wrapLinear m a = a := by
  cases m <;> first | rfl | exact absurd rfl h

/-- `nextIp` as a number, in Mode32. -/
theorem nextIp_toNat_mode32 {s : State} (h : s.cfg.mode = .mode32) (len : Nat) :
    (s.nextIp len).toNat = (s.ip.toNat + len) % 2 ^ 32 := by
  rw [State.nextIp, h, wrapLinear_mode32_toNat, BitVec.toNat_add, BitVec.toNat_ofNat]
  omega

/-- `nextIp` as a number, outside Mode32. -/
theorem nextIp_toNat {s : State} (h : s.cfg.mode ≠ .mode32) (len : Nat) :
    (s.nextIp len).toNat = (s.ip.toNat + len) % 2 ^ 64 := by
  rw [State.nextIp, wrapLinear_of_ne h, BitVec.toNat_add, BitVec.toNat_ofNat]
  omega

/-! ### CPUID flags -/

/-- Every bit of `CPUID.(EAX=01H):ECX` but bit 27 is the part's; bit 27 is `CR4.OSXSAVE` (R29, R211). -/
theorem cpuidEcx_getLsbD (c : Config) (k : Nat) :
    (cpuidEcx c).getLsbD k = if k = 27 then cr4Osxsave c else c.cpuid1Ecx.getLsbD k := by
  by_cases hk : k < 32
  · unfold cpuidEcx
    interval_cases k <;> cases cr4Osxsave c <;> simp
  · have hge : 32 ≤ k := by omega
    rw [BitVec.getLsbD_of_ge _ _ hge, BitVec.getLsbD_of_ge _ _ hge, if_neg (by omega)]

@[simp] theorem cpuidAes_eq (c : Config) : cpuidAes c = c.cpuid1Ecx.getLsbD 25 := cpuidEcx_getLsbD c 25
@[simp] theorem cpuidAvx_eq (c : Config) : cpuidAvx c = c.cpuid1Ecx.getLsbD 28 := cpuidEcx_getLsbD c 28
@[simp] theorem cpuidOsxsave_eq (c : Config) : cpuidOsxsave c = cr4Osxsave c := cpuidEcx_getLsbD c 27

/-! ### `Check` -/

/-- `Check(legacy)` raises nothing exactly when the legacy forms are enabled and no LOCK prefix is present (R183, R188). -/
theorem checkLegacy_eq_none {s : State} {e : LegEnc} :
    s.checkLegacy e = none ↔
      s.cfg.mode.modelled = true ∧ enabledLegacy s.cfg = true ∧ e.prefixes.contains .lock = false := by
  unfold State.checkLegacy enabledLegacy
  split_ifs <;> simp_all
  grind

/-- `Check(VEX)` raises nothing exactly when the VEX forms are enabled and the encoding is clean (R183, R188). -/
theorem checkVex_eq_none {s : State} {e : VexEnc} {round bad : Bool} :
    s.checkVex e round bad = none ↔
      s.cfg.mode.modelled = true ∧ enabledVex s.cfg = true ∧ forbiddenPrefix e = false ∧ e.l = false ∧ bad = false := by
  unfold State.checkVex enabledVex
  split_ifs <;> simp_all <;> grind

/-! ### The operand -/

/-- Where the address passes, it is aligned (legacy) and in range. -/
theorem addressCheck_eq_none {s : State} {f : Form} {seg : Seg} {a : Word} :
    s.addressCheck f seg a = none ↔ misaligned f a = false ∧ outOfRange s.cfg a = false := by
  unfold State.addressCheck
  cases misaligned f a <;> cases outOfRange s.cfg a <;> simp

/-- An operand is out of line only for a legacy form, by its address modulo 16 (R46). -/
theorem misaligned_eq_false {f : Form} {a : Word} :
    misaligned f a = false ↔ (f = .legacy → a.toNat % 16 = 0) := by
  cases f
  · simp only [misaligned, bne_eq_false_iff_eq, true_imp_iff]
    rw [← BitVec.toNat_inj]
    simp [BitVec.extractLsb'_toNat]
  · simp [misaligned]

/-- A byte of an operand fails to translate exactly when the list of failing bytes names it. -/
theorem mem_failingBytes {c : Config} {a : Word} {g : Word × BitVec 32} :
    g ∈ failingBytes c a ↔
      ∃ k < 16, g.1 = operandByte c.mode a k ∧ translate c .read (operandByte c.mode a k) = .pageFault g.2 := by
  unfold failingBytes
  simp only [List.mem_filterMap, List.mem_range]
  constructor
  · rintro ⟨k, hk, h⟩
    refine ⟨k, hk, ?_⟩
    split at h <;> simp_all
    · subst h; simp
  · rintro ⟨k, hk, h1, h2⟩
    refine ⟨k, hk, ?_⟩
    rw [h2]
    cases g
    simp_all

/-- The translation raises nothing exactly when every byte has a location (R45 step 3). -/
theorem translationCheck_eq_none {s : State} {a : Word} :
    s.translationCheck a = none ↔
      ∀ k < 16, ∃ p, translate s.cfg .read (operandByte s.cfg.mode a k) = .location p := by
  unfold State.translationCheck
  constructor
  · intro h k hk
    cases ht : translate s.cfg .read (operandByte s.cfg.mode a k) with
    | location p => exact ⟨p, rfl⟩
    | pageFault code =>
      exfalso
      have hm : (operandByte s.cfg.mode a k, code) ∈ failingBytes s.cfg a := mem_failingBytes.mpr ⟨k, hk, rfl, ht⟩
      split at h
      · simp at h
      · next hn => rw [hn] at hm; simp at hm
    | device =>
      exfalso
      have hm : operandByte s.cfg.mode a k ∈ deviceBytes s.cfg a := by
        unfold deviceBytes
        simp only [List.mem_filterMap, List.mem_range]
        exact ⟨k, hk, by rw [ht]⟩
      split at h
      · simp at h
      · split at h
        · simp at h
        · next hn => rw [hn] at hm; simp at hm
  · intro h
    have h1 : failingBytes s.cfg a = [] := by
      unfold failingBytes
      rw [List.filterMap_eq_nil_iff]
      intro k hk
      obtain ⟨p, hp⟩ := h k (List.mem_range.mp hk)
      rw [hp]
    have h2 : deviceBytes s.cfg a = [] := by
      unfold deviceBytes
      rw [List.filterMap_eq_nil_iff]
      intro k hk
      obtain ⟨p, hp⟩ := h k (List.mem_range.mp hk)
      rw [hp]
    rw [h1, h2]

/-- What a read that completes was: every check passed, and the value is the 16 bytes at the address (R45). -/
theorem memRead_ok {s : State} {f : Form} {seg : Seg} {a : Word} {val : Xmm} :
    s.memRead f seg a = .ok val ↔
      s.addressCheck f seg a = none ∧ s.translationCheck a = none ∧ val = s.bytes16 a := by
  unfold State.memRead
  split
  · next h => simp [h]
  · next h =>
    split
    · next h' => simp [h']
    · next h' => simp [h, h', eq_comm]

/-- Why a read did not complete: the first check that failed. -/
theorem memRead_error {s : State} {f : Form} {seg : Seg} {a : Word} {stop : Stop} :
    s.memRead f seg a = .error stop ↔
      s.addressCheck f seg a = some stop ∨ (s.addressCheck f seg a = none ∧ s.translationCheck a = some stop) := by
  unfold State.memRead
  split
  · next h => simp [h]
  · next h =>
    split
    · next h' => simp [h, h']
    · next h' => simp [h, h']

/-! ### The shape of an instruction -/

/-- A legacy instruction that completes: `Check` raised nothing, the operand was read, and the next state is the register
write followed by the advance of `ip`. -/
theorem legacyInstr_next {e : LegEnc} {d : VNum} {src : RM} {imms : Nat} {result : Xmm → Xmm} {s t : State} :
    legacyInstr e d src imms result s = .next t ↔
      s.checkLegacy e = none ∧
      ∃ operand, s.src2 .legacy e.prefixes (legacyLen e src imms) src = .ok operand ∧
        t = (s.writeLegacy d (result operand)).complete (legacyLen e src imms) := by
  unfold legacyInstr
  split
  · next stop h => cases stop <;> simp [h, Stop.outcome]
  · next h =>
    split
    · next stop h' => cases stop <;> simp [h', Stop.outcome]
    · next operand h' => simp [h, h', eq_comm]

/-- A VEX instruction that completes. -/
theorem vexInstr_next {e : VexEnc} {round bad : Bool} {d : VNum} {src : RM} {imms : Nat} {result : Xmm → Xmm}
    {s t : State} :
    vexInstr e round bad d src imms result s = .next t ↔
      s.checkVex e round bad = none ∧
      ∃ operand, s.src2 .vex e.prefixes (vexLen e src imms) src = .ok operand ∧
        t = (s.writeVex d (result operand)).complete (vexLen e src imms) := by
  unfold vexInstr
  split
  · next stop h => cases stop <;> simp [h, Stop.outcome]
  · next h =>
    split
    · next stop h' => cases stop <;> simp [h', Stop.outcome]
    · next operand h' => simp [h, h', eq_comm]

/-- A legacy instruction whose `Check` stops it. -/
theorem legacyInstr_of_check {e : LegEnc} {d : VNum} {src : RM} {imms : Nat} {result : Xmm → Xmm} {s : State}
    {stop : Stop} (h : s.checkLegacy e = some stop) : legacyInstr e d src imms result s = stop.outcome := by
  simp [legacyInstr, h]

/-- A VEX instruction whose `Check` stops it. -/
theorem vexInstr_of_check {e : VexEnc} {round bad : Bool} {d : VNum} {src : RM} {imms : Nat} {result : Xmm → Xmm}
    {s : State} {stop : Stop} (h : s.checkVex e round bad = some stop) :
    vexInstr e round bad d src imms result s = stop.outcome := by
  simp [vexInstr, h]

/-- A legacy instruction whose operand read stops it. -/
theorem legacyInstr_of_src2 {e : LegEnc} {d : VNum} {src : RM} {imms : Nat} {result : Xmm → Xmm} {s : State}
    {stop : Stop} (h : s.checkLegacy e = none)
    (h' : s.src2 .legacy e.prefixes (legacyLen e src imms) src = .error stop) :
    legacyInstr e d src imms result s = stop.outcome := by
  simp [legacyInstr, h, h']

/-- A VEX instruction whose operand read stops it. -/
theorem vexInstr_of_src2 {e : VexEnc} {round bad : Bool} {d : VNum} {src : RM} {imms : Nat} {result : Xmm → Xmm}
    {s : State} {stop : Stop} (h : s.checkVex e round bad = none)
    (h' : s.src2 .vex e.prefixes (vexLen e src imms) src = .error stop) :
    vexInstr e round bad d src imms result s = stop.outcome := by
  simp [vexInstr, h, h']

/-! ### Fetch -/

/-- What an instruction that was fetched says of the state: the mode is one of the two, `ip` is inside the program, the
program stands at no open edge, and the decoder read the instruction from the fetched bytes. -/
theorem fetchInstr_ok {s : State} {i : Instr} (h : s.fetchInstr = .ok i) :
    s.cfg.mode.modelled = true ∧ s.textOffset < s.cfg.program.text.length ∧
    placementOpen s.cfg = false ∧ ∃ rest, decode s.cfg.mode s.window.1 = .ok (i, rest) := by
  unfold State.fetchInstr at h
  split at h
  · simp at h
  split at h
  · simp at h
  split at h
  · simp at h
  split at h
  · simp at h
  · next h1 h2 h3 h4 =>
    unfold State.decodeWindow at h
    refine ⟨by simpa using h1, by omega, by simpa using h4, ?_⟩
    split at h
    · next j rest hd => exact ⟨rest, by simpa [hd] using h⟩
    · split at h <;> simp at h
    · simp at h

/-- No more bytes are fetched than the window holds or the text has. -/
theorem fetchBytes_length (c : Config) (ip : Word) (n : Nat) (a : Word) (bs : List Byte) :
    (fetchBytes c ip n a bs).1.length ≤ n ∧ (fetchBytes c ip n a bs).1.length ≤ bs.length := by
  induction n generalizing a bs with
  | zero => simp [fetchBytes]
  | succ n ih =>
    cases bs with
    | nil => simp [fetchBytes]
    | cons b bs =>
      unfold fetchBytes
      split
      · have := ih (a + 1) bs
        simp only [List.length_cons]
        omega
      · simp
      · simp

end Sys2Proof.Machine
end

