-- ==== Sys2Proof/Laws/PerInstr.lean ====
section
/-!
SUPPORT. Statements about every instruction as syntax, one lemma per constructor.
-/

namespace Sys2Proof.Laws

theorem disp_bytes_length (d : Disp) : d.bytes.length = d.size := by cases d <;> rfl

theorem modrmBytes_length (d : VNum) (src : RM) : (modrmBytes d src).length = src.size := by
  rcases src with j | ⟨d | d | ⟨b, d⟩ | ⟨b, i, s, d⟩ | ⟨i, s, d⟩⟩ <;>
    simp [modrmBytes, RM.size, le32Bytes, disp_bytes_length] <;> omega

theorem encodeLegacy_length (o : AesOp) (e : LegEnc) (d : VNum) (src : RM) (imm : Byte) :
    (encodeLegacy o e d src imm).length = legacyLen e src (immBytes o imm).length := by
  obtain ⟨ps, rex⟩ := e
  cases rex <;> simp [encodeLegacy, legacyLen, modrmBytes_length] <;> omega

theorem encodeVex_length (o : AesOp) (e : VexEnc) (vvvv : BitVec 4) (d : VNum) (src : RM) (imm : Byte) :
    (encodeVex o e vvvv d src imm).length = vexLen e src (immBytes o imm).length := by
  obtain ⟨ps, rex, w, l⟩ := e
  cases rex <;> simp [encodeVex, vexLen, modrmBytes_length] <;> omega

/-- The length of an instruction is the length of its encoding (`30_encoding.md` R62). -/
def EncodedLength.Statement (i : Instr) : Prop := (encode i).length = i.len

theorem EncodedLength.aesdec (e : LegEnc) (d : VNum) (src : RM) : Statement (.aesdec e d src) :=
  encodeLegacy_length ..
theorem EncodedLength.vaesdec (e : VexEnc) (d a : VNum) (src : RM) : Statement (.vaesdec e d a src) :=
  encodeVex_length ..
theorem EncodedLength.aesdeclast (e : LegEnc) (d : VNum) (src : RM) : Statement (.aesdeclast e d src) :=
  encodeLegacy_length ..
theorem EncodedLength.vaesdeclast (e : VexEnc) (d a : VNum) (src : RM) : Statement (.vaesdeclast e d a src) :=
  encodeVex_length ..
theorem EncodedLength.aesenc (e : LegEnc) (d : VNum) (src : RM) : Statement (.aesenc e d src) :=
  encodeLegacy_length ..
theorem EncodedLength.vaesenc (e : VexEnc) (d a : VNum) (src : RM) : Statement (.vaesenc e d a src) :=
  encodeVex_length ..
theorem EncodedLength.aesenclast (e : LegEnc) (d : VNum) (src : RM) : Statement (.aesenclast e d src) :=
  encodeLegacy_length ..
theorem EncodedLength.vaesenclast (e : VexEnc) (d a : VNum) (src : RM) : Statement (.vaesenclast e d a src) :=
  encodeVex_length ..
theorem EncodedLength.aesimc (e : LegEnc) (d : VNum) (src : RM) : Statement (.aesimc e d src) :=
  encodeLegacy_length ..
theorem EncodedLength.vaesimc (e : VexEnc) (vvvv : BitVec 4) (d : VNum) (src : RM) :
    Statement (.vaesimc e vvvv d src) := encodeVex_length ..
theorem EncodedLength.aeskeygenassist (e : LegEnc) (d : VNum) (src : RM) (imm : BitVec 8) :
    Statement (.aeskeygenassist e d src imm) := encodeLegacy_length ..
theorem EncodedLength.vaeskeygenassist (e : VexEnc) (vvvv : BitVec 4) (d : VNum) (src : RM) (imm : BitVec 8) :
    Statement (.vaeskeygenassist e vvvv d src imm) := encodeVex_length ..

end Sys2Proof.Laws
end

