-- ==== Sys2Proof/Tests/Slice0.lean ====
section
/-!
SUPPORT. The model's own tests: ill-formed terms that `WellFormed` refuses, words written out from the spec's encodings,
one step of each instruction on a vector of `95_test_vectors.md`, and a witness for the hypotheses of each statement.
-/

namespace Sys2Proof.Tests

open Sys2Proof.Machine

-- The kernel evaluations below run one after another: many at once need more threads than the check allows.
set_option Elab.async false

/-! ### Well-formedness: one ill-formed term for each check -/

/-- The legacy term with these prefixes, REX byte, destination and operand. -/
def legTerm (ps : List Prefix) (rex : Option Bool) (d : VNum) (src : RM) : Instr := .aesdec ⟨ps, rex⟩ d src

/-- The VEX term with these prefixes and preceding REX bits. -/
def vexTerm (ps : List Prefix) (rex : Option (BitVec 4)) (d a : VNum) (src : RM) : Instr :=
  .vaesdec ⟨ps, rex, false, false⟩ d a src

theorem test_wf_accepts :
    (legTerm [.opSize] none 1 (.reg 2)).wf .mode64 = true ∧ (legTerm [.opSize] none 1 (.reg 2)).wf .mode32 = true ∧
    (vexTerm [] none 1 2 (.reg 3)).wf .mode32 = true ∧ (vexTerm [.lock] (some 0) 15 15 (.reg 15)).wf .mode64 = true := by
  decide

theorem test_wf_refuses_mode : (legTerm [.opSize] none 1 (.reg 2)).wf .realAddress = false := by decide
theorem test_wf_refuses_repeated_prefix : (legTerm [.opSize, .opSize] none 1 (.reg 2)).wf .mode64 = false := by decide
theorem test_wf_refuses_two_segments : (legTerm [.seg .cs, .opSize, .seg .ds] none 1 (.reg 2)).wf .mode64 = false := by decide
theorem test_wf_refuses_67_in_mode32 : (legTerm [.addrSize, .opSize] none 1 (.reg 2)).wf .mode32 = false := by decide
theorem test_wf_refuses_missing_66 : (legTerm [] none 1 (.reg 2)).wf .mode64 = false := by decide
theorem test_wf_refuses_F2 : (legTerm [.opSize, .repne] none 1 (.reg 2)).wf .mode64 = false := by decide
theorem test_wf_refuses_F3 : (legTerm [.opSize, .rep] none 1 (.reg 2)).wf .mode64 = false := by decide
theorem test_wf_refuses_missing_rex_r : (legTerm [.opSize] none 8 (.reg 2)).wf .mode64 = false := by decide
theorem test_wf_refuses_missing_rex_b : (legTerm [.opSize] none 1 (.reg 8)).wf .mode64 = false := by decide
theorem test_wf_refuses_missing_rex_x :
    (legTerm [.opSize] none 1 (.mem (.sib 0 (some 8) 0 .none))).wf .mode64 = false := by decide
theorem test_wf_refuses_rex_in_mode32 : (legTerm [.opSize] (some false) 1 (.reg 2)).wf .mode32 = false := by decide
theorem test_wf_refuses_rip_in_mode32 : (legTerm [.opSize] none 1 (.mem (.ripRel 0))).wf .mode32 = false := by decide
theorem test_wf_refuses_abs_in_mode64 : (legTerm [.opSize] none 1 (.mem (.abs 0))).wf .mode64 = false := by decide
theorem test_wf_refuses_rsp_without_sib :
    (legTerm [.opSize] none 1 (.mem (.base 4 .none))).wf .mode64 = false ∧
    (legTerm [.opSize] (some false) 1 (.mem (.base 12 .none))).wf .mode64 = false := by decide
theorem test_wf_refuses_rbp_without_disp :
    (legTerm [.opSize] none 1 (.mem (.base 5 .none))).wf .mode64 = false ∧
    (legTerm [.opSize] (some false) 1 (.mem (.sib 13 none 0 .none))).wf .mode64 = false := by decide
theorem test_wf_refuses_rsp_index :
    (legTerm [.opSize] none 1 (.mem (.sib 0 (some 4) 0 .none))).wf .mode64 = false ∧
    (legTerm [.opSize] none 1 (.mem (.sibNoBase (some 4) 0 0))).wf .mode64 = false := by decide
theorem test_wf_refuses_vex_repeated_prefix : (vexTerm [.rep, .rep] none 1 2 (.reg 3)).wf .mode64 = false := by decide
theorem test_wf_refuses_vex_67_in_mode32 : (vexTerm [.addrSize] none 1 2 (.reg 3)).wf .mode32 = false := by decide
theorem test_wf_refuses_vex_rex_in_mode32 : (vexTerm [] (some 0) 1 2 (.reg 3)).wf .mode32 = false := by decide
theorem test_wf_refuses_high_numbers_in_mode32 :
    (vexTerm [] none 8 2 (.reg 3)).wf .mode32 = false ∧ (vexTerm [] none 1 8 (.reg 3)).wf .mode32 = false ∧
    (vexTerm [] none 1 2 (.reg 8)).wf .mode32 = false := by decide

/-! ### Words written out from the spec's encodings

Each word is written from the tables of `30_encoding.md`; where R70 or R75 holds it as a worked decode, the expected
reading is the rule's. -/

/-- What the decoder reads, if it reads something. -/
def read? (m : Mode) (bs : List Byte) : Option (Instr × List Byte) := (decode m bs).toOption

/-- `66 0F 38 DE`, ModRM `11 001 010` (R70). -/
theorem test_decode_aesdec : read? .mode64 [0x66, 0x0F, 0x38, 0xDE, 0xCA] =
    some (.aesdec ⟨[.opSize], none⟩ 1 (.reg 2), []) := by decide +kernel
/-- REX `0100 0101` between `66` and `0F` (R70). -/
theorem test_decode_aesdec_rex : read? .mode64 [0x66, 0x45, 0x0F, 0x38, 0xDE, 0xCA] =
    some (.aesdec ⟨[.opSize], some false⟩ 9 (.reg 10), []) := by decide +kernel
/-- `C4`, P1 `111 00010`, P2 `0 1101 0 01`, ModRM `11 001 011` (R75). -/
theorem test_decode_vaesdec : read? .mode64 [0xC4, 0xE2, 0x69, 0xDE, 0xCB] =
    some (.vaesdec ⟨[], none, false, false⟩ 1 2 (.reg 3), []) := by decide +kernel
/-- SIB `11 001 000` with `X = B = 1`, disp8 (R75). -/
theorem test_decode_vaesdec_sib : read? .mode64 [0xC4, 0x82, 0x01, 0xDE, 0x4C, 0xC8, 0x04, 0x90] =
    some (.vaesdec ⟨[], none, false, false⟩ 1 15 (.mem (.sib 8 (some 9) 3 (.d8 4))), [0x90]) := by decide +kernel
/-- `DF` in map 0F38; ModRM `00 011 101`, disp32, Mode64: `rip`-relative (R67). -/
theorem test_decode_aesdeclast : read? .mode64 [0x66, 0x0F, 0x38, 0xDF, 0x1D, 0x00, 0x01, 0x00, 0x00] =
    some (.aesdeclast ⟨[.opSize], none⟩ 3 (.mem (.ripRel 0x100)), []) := by decide +kernel
/-- `C4 E2 69 DF CB` (R75). -/
theorem test_decode_vaesdeclast : read? .mode64 [0xC4, 0xE2, 0x69, 0xDF, 0xCB] =
    some (.vaesdeclast ⟨[], none, false, false⟩ 1 2 (.reg 3), []) := by decide +kernel
/-- `DC`; prefixes `64` and `67` around `66`; ModRM `01 001 101`, disp8 (R62, R67). -/
theorem test_decode_aesenc : read? .mode64 [0x64, 0x66, 0x67, 0x0F, 0x38, 0xDC, 0x4D, 0x00] =
    some (.aesenc ⟨[.seg .fs, .opSize, .addrSize], none⟩ 1 (.mem (.base 5 (.d8 0))), []) := by decide +kernel
/-- `C4 E2 69 DC CB` in Mode32 (R74, R75). -/
theorem test_decode_vaesenc : read? .mode32 [0xC4, 0xE2, 0x69, 0xDC, 0xCB] =
    some (.vaesenc ⟨[], none, false, false⟩ 1 2 (.reg 3), []) := by decide +kernel
/-- `DD`; ModRM `00 001 100`, SIB `00 100 101`: no index, no base, disp32 (R68). -/
theorem test_decode_aesenclast : read? .mode64 [0x66, 0x0F, 0x38, 0xDD, 0x0C, 0x25, 0x78, 0x56, 0x34, 0x12] =
    some (.aesenclast ⟨[.opSize], none⟩ 1 (.mem (.sibNoBase none 0 0x12345678)), []) := by decide +kernel
/-- `C4 E2 69 DD CB`, with `L = 1` in P2 (R71, R75). -/
theorem test_decode_vaesenclast : read? .mode64 [0xC4, 0xE2, 0x6D, 0xDD, 0xCB] =
    some (.vaesenclast ⟨[], none, false, true⟩ 1 2 (.reg 3), []) := by decide +kernel
/-- `DB`; ModRM `00 001 101` in Mode32 is an absolute address (R67). -/
theorem test_decode_aesimc : read? .mode32 [0x66, 0x0F, 0x38, 0xDB, 0x0D, 0x00, 0x10, 0x00, 0x00] =
    some (.aesimc ⟨[.opSize], none⟩ 1 (.mem (.abs 0x1000)), []) := by decide +kernel
/-- `C4 62 79 DB 08`: `R = 1` (R75). -/
theorem test_decode_vaesimc : read? .mode64 [0xC4, 0x62, 0x79, 0xDB, 0x08] =
    some (.vaesimc ⟨[], none, false, false⟩ 0b1111 9 (.mem (.base 0 .none)), []) := by decide +kernel
/-- `66 0F 3A DF CA 1B` (R70). -/
theorem test_decode_aeskeygenassist : read? .mode64 [0x66, 0x0F, 0x3A, 0xDF, 0xCA, 0x1B] =
    some (.aeskeygenassist ⟨[.opSize], none⟩ 1 (.reg 2) 0x1B, []) := by decide +kernel
/-- `C4 E3 79 DF 4D F8 02` in Mode32: the immediate after the displacement (R75). -/
theorem test_decode_vaeskeygenassist : read? .mode32 [0xC4, 0xE3, 0x79, 0xDF, 0x4D, 0xF8, 0x02] =
    some (.vaeskeygenassist ⟨[], none, false, false⟩ 0b1111 1 (.mem (.base 5 (.d8 0xF8))) 2, []) := by decide +kernel
/-- `W = 1` is kept and ignored (R75, R77). -/
theorem test_decode_wig : read? .mode64 [0xC4, 0xE2, 0xD9, 0xDE, 0xCA] =
    some (.vaesdec ⟨[], none, true, false⟩ 1 4 (.reg 2), []) := by decide +kernel
/-- LES, a high `vvvv` in Mode32, a wrong `pp`, a wrong map: no instruction in scope (R71, R74, R80). -/
theorem test_decode_rejects :
    read? .mode32 [0xC4, 0x62, 0x69, 0xDE, 0xCB] = none ∧ read? .mode32 [0xC4, 0xE2, 0x29, 0xDE, 0xCB] = none ∧
    read? .mode64 [0xC4, 0xE2, 0x68, 0xDE, 0xCB] = none ∧ read? .mode64 [0xC4, 0xE1, 0x69, 0xDE, 0xCB] = none ∧
    read? .mode64 [0x66, 0x45, 0x66, 0x0F, 0x38, 0xDE, 0xCA] = none := by decide +kernel
/-- The encoder writes the words of R70 and R75. -/
theorem test_encode_words :
    encode (.aesdec ⟨[.opSize], none⟩ 1 (.mem (.sib 3 (some 1) 2 (.d8 0x10)))) =
      [0x66, 0x0F, 0x38, 0xDE, 0x4C, 0x8B, 0x10] ∧
    encode (.vaesdec ⟨[], none, false, false⟩ 9 10 (.reg 11)) = [0xC4, 0x42, 0x29, 0xDE, 0xCB] ∧
    encode (.vaeskeygenassist ⟨[], none, false, false⟩ 0b1111 12 (.reg 13) 0xFF) =
      [0xC4, 0x43, 0x79, 0xDF, 0xE5, 0xFF] := by decide +kernel
/-- Table words are numbered from the first byte up. -/
theorem test_decode_table_word :
    decodeTableWord 32 0xDE380F66 = some (.aesdec ⟨[.opSize], none⟩ 0 (.mem (.base 0 .none))) := by decide +kernel

/-! ### One step of each instruction -/

/-- A value whose byte `i` is `i`. -/
def ramp : Xmm := 0x0F0E0D0C0B0A09080706050403020100
/-- Two values of the vectors D1, E1 and their kin. -/
def valA : Xmm := 0x7B5B54657374566563746F725D53475D
def valB : Xmm := 0x48692853686179295B477565726F6E5D

/-- A launched processor in 64-bit mode with these vector registers 1, 2 and 3, each with an upper lane of ones, and
`rax = 1000H`, where memory holds the bytes of `mem`. -/
def machine (r1 r2 r3 : Xmm) (mem : List Byte) : State :=
  let s := State.reset.boot
  { s with
    ip := 0x400000
    v := ((s.v.set 1 ⟨r1, [BitVec.allOnes 128]⟩).set 2 ⟨r2, [BitVec.allOnes 128]⟩).set 3 ⟨r3, [BitVec.allOnes 128]⟩
    x := s.x.set 0 0x1000
    mem := Memory.writeBytes [] 0x1000 mem }

/-- The bytes of a value, the lowest first. -/
def bytesOf (v : Xmm) : List Byte := (List.range 16).map (byteAt v)

/-- What an instruction left in register 1 (low, upper) and in `ip`. -/
def after (i : Instr) (s : State) : Option (Xmm × List Xmm × Word) :=
  match exec i s with
  | .next t => some (t.xmm 1, t.upper 1, t.ip)
  | .fault _ => none
  | .refused _ => none

def leg : LegEnc := ⟨[.opSize], none⟩
def vex : VexEnc := ⟨[], none, false, false⟩
def ones : List Xmm := [BitVec.allOnes 128]
def rax : RM := .mem (.base 0 .none)

/-- Vector D1. -/
theorem test_exec_aesdec : after (.aesdec leg 1 (.reg 2)) (machine valA valB 0 []) =
    some (0x138AC342FAEA2787B58EB95EB730392A, ones, 0x400005) := by decide +kernel
/-- Vector D4, the state from register 2, the round key from memory. -/
theorem test_exec_vaesdec : after (.vaesdec vex 1 2 rax) (machine 0 ramp 0 (bytesOf 0)) =
    some (0x519BBDC6B2F24F176E29192E1C96A313, [0], 0x400005) := by decide +kernel
/-- Vector DL1. -/
theorem test_exec_aesdeclast : after (.aesdeclast leg 1 (.reg 2)) (machine valA valB 0 []) =
    some (0xC5A391EF6B317F95D410637B72A593D0, ones, 0x400005) := by decide +kernel
/-- Vector DL10. -/
theorem test_exec_vaesdeclast : after (.vaesdeclast vex 1 2 (.reg 3)) (machine 0 valB valA []) =
    some (0x654DFB35A772692994902ACE0A8BA9D0, [0], 0x400005) := by decide +kernel
/-- Vector E1, the round key from memory. -/
theorem test_exec_aesenc : after (.aesenc leg 1 rax) (machine valA 0 0 (bytesOf valB)) =
    some (0xA8311C2F9FDBA3C58B104B58DED7E595, ones, 0x400005) := by decide +kernel
/-- Vector E10. -/
theorem test_exec_vaesenc : after (.vaesenc vex 1 2 (.reg 3)) (machine 0 valB valA []) =
    some (0xE2BD22FB69E541F97BA605905FB152C4, [0], 0x400005) := by decide +kernel
/-- Vector EL1. -/
theorem test_exec_aesenclast : after (.aesenclast leg 1 (.reg 2)) (machine valA valB 0 []) =
    some (0xC7FB881E938C5964177EC42553FDC611, ones, 0x400005) := by decide +kernel
/-- Vector EL5, the destination also the state. -/
theorem test_exec_vaesenclast : after (.vaesenclast vex 1 1 (.reg 1)) (machine ramp 0 0 []) =
    some (0x246171F2CE7DDE387CAD04F675656A63, [0], 0x400005) := by decide +kernel
/-- Vector I2. -/
theorem test_exec_aesimc : after (.aesimc leg 1 (.reg 2)) (machine 0 valB 0 []) =
    some (0x597F8DF109EFAA15F39BC5A119D859B6, ones, 0x400005) := by decide +kernel
/-- Vector I1, from memory. -/
theorem test_exec_vaesimc : after (.vaesimc vex 0b1111 1 rax) (machine 0 0 0 (bytesOf valA)) =
    some (0x627A6F6644B109C82B18330A81C3B3E5, [0], 0x400005) := by decide +kernel
/-- Vector K9. -/
theorem test_exec_aeskeygenassist :
    after (.aeskeygenassist leg 1 (.reg 2) 0x01) (machine 0 0x3C4FCF098815F7ABA6D2AE2816157E2B 0 []) =
    some (0x01EB848BEB848A013424B5E524B5E434, ones, 0x400006) := by decide +kernel
/-- Vector K7, from memory. -/
theorem test_exec_vaeskeygenassist : after (.vaeskeygenassist vex 0b1111 1 rax 0x1B) (machine 0 0 0 (bytesOf ramp)) =
    some (0xFE76ABCC76ABD7FEF2C56F70C56F6BF2, [0], 0x400006) := by decide +kernel

/-- A fault outcome, if it is one. -/
def faultOf (o : Host.Outcome State Fault Refusal) : Option Fault :=
  match o with
  | .next _ => none
  | .fault f => some f
  | .refused _ => none

/-- Section 2.8: a legacy operand off by one faults, a VEX operand does not. -/
theorem test_alignment :
    faultOf (exec (.aesenc leg 1 (.mem (.base 0 (.d8 1)))) (machine 0 0 0 [])) = some (.generalProtection 0x400000) ∧
    faultOf (exec (.vaesenc vex 1 2 (.mem (.base 0 (.d8 1)))) (machine 0 0 0 [])) = none := by decide +kernel
/-- `C4 E2 09 DB CA` (R75): the reserved field is not `1111`. -/
theorem test_reserved_vvvv :
    faultOf (exec (.vaesimc vex 0b0001 1 (.reg 2)) (machine 0 0 0 [])) = some (.invalidOpcode 0x400000) := by decide +kernel
/-- The word of the first row of the table, as the first instruction after reset. -/
theorem test_step_from_reset :
    (match step (State.reset.withFetchWord 32 0xDE380F66) with
      | .next t => decide (t.xmm 0 = 0x52525252525252525252525252525252 ∧ t.ip = 0xFFF5)
      | .fault _ => false
      | .refused _ => false) = true := by decide +kernel
theorem test_reset_memory_wf : State.reset.mem.wf = true := by decide

/-! ### Witnesses: states and operands that meet the hypotheses of each statement -/

/-- `machine` with this program text at `ip`. -/
def withText (text : List Byte) : State := (machine valA valB ramp (bytesOf valB)).loadAtIp text

/-- `withText` with these translation ranges. -/
def withRanges (text : List Byte) (rs : List TransRange) : State :=
  { withText text with cfg := { (withText text).cfg with translation := rs } }

/-- `withText`, with the program at another address. -/
def placedAt (start : Word) (text : List Byte) : State := { withText text with ip := start }.loadAtIp text

/-- A program three bytes below the top of the 64-bit space. -/
def atTop (text : List Byte) : State := placedAt 0xFFFFFFFFFFFFFFFD text

/-- `withText` with `MODE = Mode32` (flat segments). -/
def mode32Text (text : List Byte) : State :=
  { withText text with cfg := { (withText text).cfg with mode := .mode32 } }

/-- `withText []` with these CPUID flags and control registers. -/
def withEnables (ecx : BitVec 32) (cr0 cr4 xcr0 : Word) : State :=
  { withText [] with cfg := { (withText []).cfg with cpuid1Ecx := ecx, cr0 := cr0, cr4 := cr4, xcr0 := xcr0 } }

/-- `withText []` with the 256-bit extension. -/
def withVaes256 : State := { withText [] with cfg := { (withText []).cfg with hasVaes256 := true } }

/-- `withText []` with these values of `rax`, `rsp` and `rbp`. -/
def withRegs (ax sp bp : Word) : State :=
  { withText [] with x := (((withText []).x.set 0 ax).set 4 sp).set 5 bp }

/-- The longest legacy instruction without a forbidden prefix: 15 bytes. -/
def longestLegacy : Instr :=
  .aeskeygenassist ⟨[.seg .fs, .addrSize, .opSize, .lock], some true⟩ 8 (.mem (.sib 12 (some 9) 3 (.d32 0x7FFFFFFF))) 0xFF

/-- The longest VEX instruction without a forbidden prefix: 13 bytes. -/
def longestVex : Instr :=
  .vaeskeygenassist ⟨[.addrSize, .seg .gs], none, true, false⟩ 0b1111 8 (.mem (.sibNoBase (some 12) 0 0x80000000)) 0

/-- A VEX instruction of 18 bytes, with every forbidden prefix. -/
def overlongVex : Instr :=
  .vaeskeygenassist ⟨[.seg .fs, .addrSize, .opSize, .lock, .repne, .rep], some 0, false, false⟩ 0b1111 1
    (.mem (.sib 0 none 0 (.d32 0))) 0

/-- `AESDEC xmm1, xmm2` and its bytes (R70). -/
def shortLegacy : Instr := .aesdec leg 1 (.reg 2)
def shortBytes : List Byte := [0x66, 0x0F, 0x38, 0xDE, 0xCA]

/-- An outcome that is a next state. -/
def goesOn (o : Host.Outcome State Fault Refusal) : Bool :=
  match o with
  | .next _ => true
  | .fault _ => false
  | .refused _ => false

theorem exists_next {o : Host.Outcome State Fault Refusal} (h : goesOn o = true) : ∃ t, o = .next t := by
  cases o with
  | next t => exact ⟨t, rfl⟩
  | fault f => cases h
  | refused r => cases h

/-- `DecodeOfEncode`, `EncodedLengthBounds`: both modes, both formats, the shortest and the longest encodings. -/
theorem witness_wellFormed :
    longestLegacy.wf .mode64 = true ∧ longestLegacy.len = 15 ∧ instrForm longestLegacy = .legacy ∧
    longestVex.wf .mode64 = true ∧ longestVex.len = 13 ∧ instrForm longestVex = .vex ∧ badPrefix longestVex = false ∧
    shortLegacy.wf .mode32 = true ∧ shortLegacy.len = 5 ∧
    (Instr.vaesimc vex 0b1111 7 (.reg 7)).wf .mode32 = true ∧ (Instr.vaesimc vex 0b1111 7 (.reg 7)).len = 5 := by
  decide +kernel

/-- `DecodedIsWellFormed`, with bytes left over. -/
theorem witness_DecodedIsWellFormed : decode .mode64 (shortBytes ++ [0x90]) = .ok (shortLegacy, [0x90]) := by rfl

/-- `EncodingIsPrefixFree`: the whole string but one byte, and nothing at all. -/
theorem witness_EncodingIsPrefixFree : shortLegacy.wf .mode64 = true ∧ 4 < shortLegacy.len ∧ 0 < shortLegacy.len := by
  decide

/-- `MatchAndMaskSelectRow`: seven bytes after the opcode; free bits all set and all clear. -/
theorem witness_MatchAndMaskSelectRow :
    7 ≤ (List.replicate 7 (0xFF : Byte)).length ∧
    (0xE2 : Byte) &&& 0x1F = 0x02 ∧ (0x02 : Byte) &&& 0x1F = 0x02 ∧ (0xF9 : Byte) &&& 0x07 = 0x01 ∧
    (0x01 : Byte) &&& 0x07 = 0x01 ∧ (0xF9 : Byte) &&& 0x7F = 0x79 ∧ (0x79 : Byte) &&& 0x7F = 0x79 ∧
    (0xE3 : Byte) &&& 0x1F = 0x03 ∧ (0x03 : Byte) &&& 0x1F = 0x03 := by decide

/-- `OutsideStringsRejected`, the premises of each clause: separated segment overrides, `67`, the first and the last REX
byte, a prefix after REX, `C5`, a missing `66`, the neighbours of the escape and opcode bytes, each `pp` and map next to
the right ones. -/
theorem witness_OutsideStringsRejected :
    ((isRex 0x40 = true ∧ isRex 0x4F = true) ∧ Mode.realAddress.modelled = false ∧
      ¬ (([.seg .cs, .opSize, .seg .gs] : List Prefix).map Prefix.kind).Nodup ∧
      Prefix.addrSize ∈ [Prefix.opSize, .addrSize] ∧ 0x66 = prefixByte .opSize) ∧
    ((∀ p ∈ [Prefix.seg .es, .seg .cs, .seg .ss, .seg .ds, .seg .fs, .seg .gs, .addrSize, .opSize, .lock, .repne, .rep],
        (0xC5 : Byte) ≠ prefixByte p) ∧ isRex 0xC5 = false ∧ (0xC5 : Byte) ≠ 0x0F ∧ (0xC5 : Byte) ≠ 0xC4) ∧
    (Prefix.repne ∈ [Prefix.opSize, .repne] ∧ Prefix.rep ∈ [Prefix.rep, .opSize] ∧ Prefix.opSize ∉ [Prefix.addrSize]) ∧
    ((0x39 : Byte) ≠ 0x38 ∧ (0x39 : Byte) ≠ 0x3A) ∧
    ((0xDA : Byte) ≠ 0xDB ∧ (0xDA : Byte) ≠ 0xDC ∧ (0xDA : Byte) ≠ 0xDD ∧ (0xDA : Byte) ≠ 0xDE ∧ (0xDA : Byte) ≠ 0xDF) ∧
    ((0xE0 : Byte) ≠ 0xDB ∧ (0xE0 : Byte) ≠ 0xDC ∧ (0xE0 : Byte) ≠ 0xDD ∧ (0xE0 : Byte) ≠ 0xDE ∧ (0xE0 : Byte) ≠ 0xDF) ∧
    ((0x7F : Byte).extractLsb' 6 2 ≠ 3#2 ∧ (0xBF : Byte).extractLsb' 6 2 ≠ 3#2) ∧
    ((0x68 : Byte).extractLsb' 0 2 ≠ 1#2 ∧ (0x6A : Byte).extractLsb' 0 2 ≠ 1#2) ∧
    ((0xE1 : Byte).extractLsb' 0 5 ≠ 2#5 ∧ (0xE1 : Byte).extractLsb' 0 5 ≠ 3#5 ∧
      (0xE4 : Byte).extractLsb' 0 5 ≠ 2#5 ∧ (0xE4 : Byte).extractLsb' 0 5 ≠ 3#5) ∧
    ((0xE2 : Byte).extractLsb' 0 5 = 2#5 ∧ (0xE3 : Byte).extractLsb' 0 5 = 3#5 ∧ (0xDE : Byte) ≠ 0xDF) ∧
    ((0x29 : Byte).getLsbD 6 = false ∧ (0xDE : Byte) ≠ 0xDB) := by decide

/-- `VexWIsIgnored`, `ReservedVvvv` (both decoding clauses): without a prefix, and with a segment override and a REX byte. -/
theorem witness_vexStrings :
    decode .mode64 ([].map prefixByte ++ ([] ++ 0xC4 :: 0xE2 :: 0xD9 :: 0xDE :: [0xCA])) =
      .ok (.vaesdec ⟨[], none, true, false⟩ 1 4 (.reg 2), []) ∧
    decode .mode64 ([.seg .fs].map prefixByte ++ ([0x4F] ++ 0xC4 :: 0xE2 :: 0x09 :: 0xDB :: [0xCA])) =
      .ok (.vaesimc ⟨[.seg .fs], some 0xF, false, false⟩ 0b0001 1 (.reg 2), []) ∧ isRex 0x4F = true ∧
    decode .mode64 ([].map prefixByte ++ ([] ++ 0xC4 :: 0xE3 :: 0x71 :: 0xDF :: [0xCA, 0x00])) =
      .ok (.vaeskeygenassist vex 0b1110 1 (.reg 2) 0, []) :=
  ⟨rfl, rfl, rfl, rfl⟩

/-- `StepRunsDecodedInstruction`. -/
theorem witness_StepRunsDecodedInstruction :
    let s := withText (shortBytes ++ [0x90])
    s.faultRecord = none ∧ s.cfg.mode.modelled = true ∧ s.textOffset < s.cfg.program.text.length ∧
    placementOpen s.cfg = false ∧
    decode s.cfg.mode s.window.1 = .ok (shortLegacy, [0x90]) :=
  ⟨rfl, rfl, by decide +kernel, by decide +kernel, rfl⟩

/-- `StepRunsEncodedInstruction`, in both modes; in the first the instruction has 15 bytes. -/
theorem witness_StepRunsEncodedInstruction :
    (let s := withText (encode longestLegacy ++ [0x90])
     s.faultRecord = none ∧ longestLegacy.wf s.cfg.mode = true ∧ longestLegacy.len ≤ 15 ∧
     s.cfg.program.text = [] ++ (encode longestLegacy ++ [0x90]) ∧
     (s.ip - s.cfg.program.start).toNat = ([] : List Byte).length ∧ placementOpen s.cfg = false ∧
     ∀ k < longestLegacy.len, ∃ p, translate s.cfg .fetch (s.ip + BitVec.ofNat 64 k) = .location p) ∧
    (let s := mode32Text shortBytes
     s.faultRecord = none ∧ shortLegacy.wf s.cfg.mode = true ∧ s.cfg.program.text = [] ++ (encode shortLegacy ++ []) ∧
     (s.ip - s.cfg.program.start).toNat = ([] : List Byte).length ∧ placementOpen s.cfg = false ∧
     ∀ k < shortLegacy.len, ∃ p, translate s.cfg .fetch (s.ip + BitVec.ofNat 64 k) = .location p) :=
  ⟨⟨rfl, by decide +kernel, by decide +kernel, rfl, by decide +kernel, by decide +kernel, fun _ _ => ⟨_, rfl⟩⟩,
   ⟨rfl, by decide +kernel, by decide +kernel, by decide +kernel, by decide +kernel, fun _ _ => ⟨_, rfl⟩⟩⟩

/-- `LongInstructionFaults`: an instruction of 18 bytes, and one of 16. -/
theorem witness_LongInstructionFaults :
    let s := withText (encode overlongVex)
    s.faultRecord = none ∧ overlongVex.wf s.cfg.mode = true ∧ overlongVex.len = 18 ∧
    s.cfg.program.text = [] ++ (encode overlongVex ++ []) ∧
    (s.ip - s.cfg.program.start).toNat = ([] : List Byte).length ∧ placementOpen s.cfg = false ∧
    (∀ k < 15, ∃ p, translate s.cfg .fetch (s.ip + BitVec.ofNat 64 k) = .location p) ∧
    (vexTerm [.seg .fs, .addrSize, .opSize, .lock, .repne, .rep] none 1 2 (.mem (.sib 0 none 0 (.d32 0)))).len = 16 :=
  ⟨rfl, by decide +kernel, by decide +kernel, by decide +kernel, by decide +kernel, by decide +kernel,
   fun _ _ => ⟨_, rfl⟩, by decide +kernel⟩

/-- A fetch that fails at the third byte of the instruction at `400000H`. -/
def failingFetch : TransRange := { kind := .fetch, first := 0x400002, last := 0x400FFF, effect := .fails 0x15 }

/-- `FetchPageFault`. -/
theorem witness_FetchPageFault :
    let s := withRanges shortBytes [failingFetch]
    s.faultRecord = none ∧ shortLegacy.wf s.cfg.mode = true ∧ 2 < shortLegacy.len ∧
    s.cfg.program.text = [] ++ (encode shortLegacy ++ []) ∧
    (s.ip - s.cfg.program.start).toNat = ([] : List Byte).length ∧ placementOpen s.cfg = false ∧
    translate s.cfg .fetch (s.ip + BitVec.ofNat 64 0) = .location 0x400000 ∧
    translate s.cfg .fetch (s.ip + BitVec.ofNat 64 1) = .location 0x400001 ∧
    translate s.cfg .fetch (s.ip + BitVec.ofNat 64 2) = .pageFault 0x15 := by
  refine ⟨rfl, ?_, ?_, ?_, ?_, ?_, ?_, ?_, ?_⟩ <;> decide +kernel

/-- A run that ended at its end address. -/
def endsFinal (r : RunState) : Bool :=
  match r with
  | .running _ => false
  | .final _ => true
  | .faulted _ _ => false
  | .refused _ _ => false

/-- The fault in which a run ended. -/
def runFault (r : RunState) : Option Fault :=
  match r with
  | .running _ => none
  | .final _ => none
  | .faulted _ f => some f
  | .refused _ _ => none

theorem exists_final {r : RunState} (h : endsFinal r = true) : ∃ t, r = .final t := by
  cases r with
  | final t => exact ⟨t, rfl⟩
  | running _ => cases h
  | faulted _ _ => cases h
  | refused _ _ => cases h

theorem exists_faulted {r : RunState} {f : Fault} (h : runFault r = some f) : ∃ t, r = .faulted t f := by
  cases r with
  | faulted t g => cases h; exact ⟨t, rfl⟩
  | running _ => cases h
  | final _ => cases h
  | refused _ _ => cases h

/-- A state with a program meets the invariant; so `StepKeepsInvariant`, `StepFrame` and `RunsEnd` speak of it. -/
theorem witness_Inv : (withText shortBytes).Inv := by
  refine ⟨?_, ?_, ?_, ?_, ?_⟩ <;> decide +kernel

/-- The invariant in Mode32, and of a program that wraps past the top of the 64-bit space. -/
theorem witness_Inv_edges : (mode32Text shortBytes).Inv ∧ (atTop shortBytes).Inv := by
  refine ⟨⟨?_, ?_, ?_, ?_, ?_⟩, ⟨?_, ?_, ?_, ?_, ?_⟩⟩ <;> decide +kernel

/-- R27: `ip + len` modulo 2^64, at a program placed three bytes below the top. -/
theorem test_ip_wraps :
    (match run 1 (atTop shortBytes) with
      | .running t => decide (t.ip = 2)
      | .final _ => false
      | .faulted _ _ => false
      | .refused _ _ => false) = true ∧ endsFinal (run 2 (atTop shortBytes)) = true := by decide +kernel

/-- R27: a program within 15 bytes of 2^47 is refused; 16 bytes away it is not. -/
theorem test_placement :
    placementOpen (placedAt (2 ^ 47 - 20) shortBytes).cfg = true ∧
    placementOpen (placedAt (2 ^ 47 - 21) shortBytes).cfg = false ∧
    placementOpen (placedAt (2 ^ 47 + 15) shortBytes).cfg = true ∧
    placementOpen (placedAt (2 ^ 47 + 16) shortBytes).cfg = false := by decide +kernel

/-- `StepKeepsInvariant`, `StepFrame`. -/
theorem witness_step : ∃ t, step (withText shortBytes) = .next t := exists_next (by decide +kernel)

/-- `RunsEnd`: five bytes take one step, so a run of two has ended. -/
theorem witness_RunsEnd : (withText shortBytes).cfg.program.text.length < 5 * 2 := by decide

/-- `FinalStateIsAtEnd`. -/
theorem witness_FinalStateIsAtEnd : ∃ t, run 2 (withText shortBytes) = .final t :=
  exists_final (by decide +kernel)

/-- `FaultedRunIsRecorded`: the second instruction has a LOCK prefix. -/
theorem witness_FaultedRunIsRecorded :
    (withText (shortBytes ++ 0xF0 :: shortBytes)).faultRecord = none ∧
    ∃ t, run 2 (withText (shortBytes ++ 0xF0 :: shortBytes)) = .faulted t (.invalidOpcode 0x400005) :=
  ⟨rfl, exists_faulted (by decide +kernel)⟩

/-- `ExecFrame`, `LegacyKeepsUpperBits`, `VexZeroesUpperBits`, `FlagsTakeNoPart`: both forms go on. -/
theorem witness_exec_next :
    (instrForm (.aesenc leg 1 rax) = .legacy ∧ ∃ t, exec (.aesenc leg 1 rax) (withText []) = .next t) ∧
    (instrForm (.vaesenc vex 1 2 rax) = .vex ∧ ∃ t, exec (.vaesenc vex 1 2 rax) (withText []) = .next t) :=
  ⟨⟨rfl, exists_next (by decide +kernel)⟩, ⟨rfl, exists_next (by decide +kernel)⟩⟩

/-- The premises on the state that all completion statements share, in both modes. -/
theorem witness_enabled :
    (withText []).cfg.mode.modelled = true ∧ (mode32Text []).cfg.mode.modelled = true ∧
    enabledLegacy (withText []).cfg = true ∧ enabledVex (withText []).cfg = true ∧
    enabledLegacy (mode32Text []).cfg = true ∧ enabledVex (mode32Text []).cfg = true ∧
    leg.prefixes.contains .lock = false ∧ forbiddenPrefix vex = false ∧ vex.l = false := by decide +kernel

/-- The 16 bytes at `1000H`, which `rax` points to, are readable and hold `valB`, for either form and any length. -/
theorem witness_operand (f : Form) (ps : List Prefix) (len : Nat) (h : ps = [] ∨ ps = [.opSize]) :
    OperandHolds (withText []) f ps len rax valB := by
  rcases h with rfl | rfl
  all_goals
    refine ⟨⟨fun _ => ?_, fun _ => ?_, fun h => ?_⟩, ?_⟩
    · show (0x1000 : Word).toNat % 16 = 0
      decide
    · show ∀ k < 16, canonical 48 (operandByte .mode64 0x1000 k) = true
      decide +kernel
    · cases h
    · have hb : ∀ k < 16, translate (withText []).cfg .read (operandByte .mode64 0x1000 k) = .location (0x1000 + k) ∧
          byteAt valB k = (withText []).mem.read (0x1000 + k) := by decide +kernel
      exact fun k hk => ⟨_, hb k hk⟩

/-- `AesdecResult` (both clauses), register and memory operand. -/
theorem witness_AesdecResult :
    OperandHolds (withText []) .legacy leg.prefixes (Instr.aesdec leg 1 rax).len rax valB ∧
    OperandHolds (withText []) .legacy leg.prefixes (Instr.aesdec leg 1 (.reg 2)).len (.reg 2) valB ∧
    OperandHolds (withText []) .vex vex.prefixes (Instr.vaesdec vex 1 2 rax).len rax valB :=
  ⟨witness_operand _ _ _ (.inr rfl), rfl, witness_operand _ _ _ (.inl rfl)⟩

/-- `AesdeclastResult`. -/
theorem witness_AesdeclastResult :
    OperandHolds (withText []) .legacy leg.prefixes (Instr.aesdeclast leg 1 rax).len rax valB ∧
    OperandHolds (withText []) .vex vex.prefixes (Instr.vaesdeclast vex 1 2 rax).len rax valB :=
  ⟨witness_operand _ _ _ (.inr rfl), witness_operand _ _ _ (.inl rfl)⟩

/-- `AesencResult`. -/
theorem witness_AesencResult :
    OperandHolds (withText []) .legacy leg.prefixes (Instr.aesenc leg 1 rax).len rax valB ∧
    OperandHolds (withText []) .vex vex.prefixes (Instr.vaesenc vex 1 2 rax).len rax valB :=
  ⟨witness_operand _ _ _ (.inr rfl), witness_operand _ _ _ (.inl rfl)⟩

/-- `AesenclastResult`. -/
theorem witness_AesenclastResult :
    OperandHolds (withText []) .legacy leg.prefixes (Instr.aesenclast leg 1 rax).len rax valB ∧
    OperandHolds (withText []) .vex vex.prefixes (Instr.vaesenclast vex 1 2 rax).len rax valB :=
  ⟨witness_operand _ _ _ (.inr rfl), witness_operand _ _ _ (.inl rfl)⟩

/-- `AesimcResult`. -/
theorem witness_AesimcResult :
    OperandHolds (withText []) .legacy leg.prefixes (Instr.aesimc leg 1 rax).len rax valB ∧
    OperandHolds (withText []) .vex vex.prefixes (Instr.vaesimc vex 0b1111 1 rax).len rax valB :=
  ⟨witness_operand _ _ _ (.inr rfl), witness_operand _ _ _ (.inl rfl)⟩

/-- `AeskeygenassistResult`: the result of vector K2, doubleword by doubleword. -/
theorem witness_AeskeygenassistResult :
    let r : Xmm := 0xED52F93552F934ED4D39A09C39A09D4D
    dwordAt r 0 = subWord (dwordAt valB 1) ∧
    dwordAt r 1 = rotWord (subWord (dwordAt valB 1)) ^^^ (0x01 : Byte).setWidth 32 ∧
    dwordAt r 2 = subWord (dwordAt valB 3) ∧
    dwordAt r 3 = rotWord (subWord (dwordAt valB 3)) ^^^ (0x01 : Byte).setWidth 32 ∧
    OperandHolds (withText []) .legacy leg.prefixes (Instr.aeskeygenassist leg 1 rax 0x01).len rax valB ∧
    OperandHolds (withText []) .vex vex.prefixes (Instr.vaeskeygenassist vex 0b1111 1 rax 0x01).len rax valB :=
  ⟨by decide +kernel, by decide +kernel, by decide +kernel, by decide +kernel,
   witness_operand _ _ _ (.inr rfl), witness_operand _ _ _ (.inl rfl)⟩

/-- `FormsAgreeOnLowBits`: every pair of forms goes on. -/
theorem witness_FormsAgreeOnLowBits :
    [Instr.aesdec leg 1 (.reg 2), .vaesdec vex 1 1 (.reg 2), .aesdeclast leg 1 (.reg 2), .vaesdeclast vex 1 1 (.reg 2),
     .aesenc leg 1 (.reg 2), .vaesenc vex 1 1 (.reg 2), .aesenclast leg 1 (.reg 2), .vaesenclast vex 1 1 (.reg 2),
     .aesimc leg 1 (.reg 2), .vaesimc vex 0b1111 1 (.reg 2), .aeskeygenassist leg 1 (.reg 2) 1,
     .vaeskeygenassist vex 0b1111 1 (.reg 2) 1].all (fun i => goesOn (exec i (withText []))) = true := by decide +kernel

/-- `LegacyInvalidOpcode`: each cause by itself. -/
theorem witness_LegacyInvalidOpcode :
    instrForm shortLegacy = .legacy ∧
    (let s := withEnables 0x10000000 0 0x40200 7
     s.cfg.mode.modelled = true ∧ s.cfg.cpuid1Ecx.getLsbD 25 = false) ∧
    (withEnables 0x12000000 0x4 0x40200 7).cfg.cr0.getLsbD 2 = true ∧
    (withEnables 0x12000000 0 0x40000 7).cfg.cr4.getLsbD 9 = false := by decide +kernel

/-- `VexInvalidOpcode`: each cause by itself, a refused mode, and control registers that agree on the two bits consulted. -/
theorem witness_VexInvalidOpcode :
    instrForm (.vaesimc vex 0b1111 1 (.reg 2)) = .vex ∧
    (let s := withEnables 0x10000000 0 0x40200 7
     s.cfg.mode.modelled = true ∧ s.cfg.cpuid1Ecx.getLsbD 25 = false) ∧
    (withEnables 0x02000000 0 0x40200 7).cfg.cpuid1Ecx.getLsbD 28 = false ∧
    (withEnables 0x12000000 0 0x200 7).cfg.cr4.getLsbD 18 = false ∧
    (withEnables 0x12000000 0 0x40200 3).cfg.xcr0.extractLsb' 1 2 ≠ 0b11#2 ∧
    (withEnables 0x12000000 0 0x40200 5).cfg.xcr0.extractLsb' 1 2 ≠ 0b11#2 ∧
    State.reset.cfg.mode.modelled = false ∧
    (0x4 : Word).getLsbD 3 = (withText []).cfg.cr0.getLsbD 3 ∧
    (0x40000 : Word).getLsbD 18 = (withText []).cfg.cr4.getLsbD 18 := by decide +kernel

/-- `EncodingInvalidOpcode`, `VexLengthBit`: each clause. -/
theorem witness_encodingCauses :
    badPrefix (.aesdec ⟨[.opSize, .lock], none⟩ 1 (.reg 2)) = true ∧
    badPrefix (.vaesdec ⟨[], some 0, false, false⟩ 1 2 (.reg 3)) = true ∧
    (instrL (.vaesdec ⟨[], none, false, true⟩ 1 2 (.reg 3)) = true ∧
      wide256 (withText []).cfg (.vaesdec ⟨[], none, false, true⟩ 1 2 (.reg 3)) = false ∧
      (withText []).cfg.hasVaes256 = false) ∧
    (instrL (.vaesimc ⟨[], none, false, true⟩ 0b1111 1 (.reg 2)) = true ∧ withVaes256.cfg.hasVaes256 = true ∧
      instrRoundVex (.vaesimc ⟨[], none, false, true⟩ 0b1111 1 (.reg 2)) = false) ∧
    (instrRoundVex (.vaesdec ⟨[], none, false, true⟩ 1 2 (.reg 3)) = true ∧ enabledVex withVaes256.cfg = true ∧
      badPrefix (.vaesdec ⟨[], none, false, true⟩ 1 2 (.reg 3)) = false ∧ withVaes256.cfg.mode.modelled = true) ∧
    badVvvv (.vaesimc vex 0b0111 1 (.reg 2)) = true ∧ badVvvv (.vaeskeygenassist vex 0b1110 1 (.reg 2) 0) = true := by
  decide +kernel

/-- `ReservedVvvv`, the executing clause: one bit off at either end of the field. -/
theorem witness_ReservedVvvv :
    (withText []).cfg.mode.modelled = true ∧ (0b0111#4) ≠ 0b1111#4 ∧ (0b1110#4) ≠ 0b1111#4 := by decide +kernel

/-- `DeviceNotAvailable`: with and without a cause of `#UD`. -/
theorem witness_DeviceNotAvailable :
    (withEnables 0x12000000 0x8 0x40200 7).cfg.mode.modelled = true ∧ (withEnables 0x12000000 0x8 0x40200 7).cfg.cr0.getLsbD 3 = true ∧
    udCause (withEnables 0x12000000 0x8 0x40200 7).cfg shortLegacy = false ∧ udCause (withEnables 0x12000000 0x8 0x40200 7).cfg (.vaesimc vex 0b1111 1 (.reg 2)) = false ∧
    udCause (withEnables 0x12000000 0x8 0x40200 7).cfg (.vaesimc vex 0b0111 1 (.reg 2)) = true ∧
    wide256 (withEnables 0x12000000 0x8 0x40200 7).cfg (.vaesimc vex 0b0111 1 (.reg 2)) = false := by decide +kernel

/-- The premises that the operand-fault statements share. -/
theorem witness_operandPremises :
    (withText []).cfg.mode.modelled = true ∧ enabled .legacy (withText []).cfg = true ∧ enabled .vex (withText []).cfg = true ∧
    udCause (withText []).cfg (.aesdec leg 1 rax) = false ∧ udCause (withText []).cfg (.vaesdec vex 1 2 rax) = false ∧
    badPrefix (.aesdec leg 1 rax) = false ∧ instrSrc (.aesdec leg 1 rax) = .mem (.base 0 .none) := by decide +kernel

/-- `MisalignedLegacyFaults`: an operand at `1001H`, and one at `100FH`. -/
theorem witness_MisalignedLegacyFaults :
    (operandAddress (withRegs 0x1001 0 0) [.opSize] 5 (.base 0 .none)).toNat % 16 ≠ 0 ∧
    (operandAddress (withRegs 0x100F 0 0) [.opSize] 5 (.base 0 .none)).toNat % 16 ≠ 0 ∧
    AddressOk (withRegs 0x1001 0 0) .vex (operandAddress (withRegs 0x1001 0 0) [.opSize] 5 (.base 0 .none)) := by
  refine ⟨by decide +kernel, by decide +kernel, fun h => ?_, fun _ => by decide +kernel, fun h => ?_⟩ <;> cases h

/-- A limit at `1008H` for reads. -/
def limitRange : TransRange := { kind := .read, first := 0x1008, last := 0xFFFFFFFF, effect := .beyondLimit }

/-- `mode32Text []` with that limit. -/
def limited : State := { mode32Text [] with cfg := { (mode32Text []).cfg with translation := [limitRange] } }

/-- `OutOfRangeFaults`: the first and the last non-canonical address and a limit in Mode32; DS, SS, and SS with a misaligned
address. -/
theorem witness_OutOfRangeFaults :
    (let s := withRegs 0x7FFFFFFFFFF8 0xFFFF7FFFFFFFFFF0 0x800000000001
     (s.cfg.mode = .mode64 ∧
       canonical s.cfg.vaBits (operandByte s.cfg.mode (operandAddress s [] 5 (.base 0 .none)) 8) = false) ∧
     (memOperand s.cfg.mode [] (.base 0 .none)).seg ≠ .ss ∧
     canonical s.cfg.vaBits (operandByte s.cfg.mode (operandAddress s [.opSize] 6 (.sib 4 none 0 .none)) 15) = false ∧
     (memOperand s.cfg.mode [.opSize] (.sib 4 none 0 .none)).seg = .ss ∧
     misaligned .legacy (operandAddress s [.opSize] 6 (.sib 4 none 0 .none)) = false ∧
     canonical s.cfg.vaBits (operandByte s.cfg.mode (operandAddress s [.opSize] 6 (.base 5 (.d8 0))) 0) = false ∧
     (memOperand s.cfg.mode [.opSize] (.base 5 (.d8 0))).seg = .ss ∧
     misaligned .legacy (operandAddress s [.opSize] 6 (.base 5 (.d8 0))) = true) ∧
    (limited.cfg.mode = .mode32 ∧
      beyondLimit limited.cfg (operandByte limited.cfg.mode (operandAddress limited [] 5 (.base 0 .none)) 7) = false ∧
      beyondLimit limited.cfg (operandByte limited.cfg.mode (operandAddress limited [] 5 (.base 0 .none)) 8) = true) := by
  decide +kernel

/-- The last eight bytes of the operand at `1000H` fail to translate, or lie on a device. -/
def failingRead : TransRange := { kind := .read, first := 0x1008, last := 0x100F, effect := .fails 0x4 }
def deviceRead : TransRange := { kind := .read, first := 0x1008, last := 0x100F, effect := .device }

/-- An operand at `1000H` passes the address checks whatever `Translate` says of it in Mode64. -/
theorem addressOk_withRanges (f : Form) (rs : List TransRange) :
    AddressOk (withRanges [] rs) f (operandAddress (withRanges [] rs) [] 5 (.base 0 .none)) := by
  refine ⟨fun _ => ?_, fun _ => ?_, fun h => ?_⟩
  · show (0x1000 : Word).toNat % 16 = 0
    decide
  · show ∀ k < 16, canonical 48 (operandByte .mode64 0x1000 k) = true
    decide +kernel
  · cases h

/-- `OperandPageFault`: byte 8 fails. -/
theorem witness_OperandPageFault :
    let s := withRanges [] [failingRead]
    AddressOk s .vex (operandAddress s [] 5 (.base 0 .none)) ∧
    translate s.cfg .read (operandByte s.cfg.mode (operandAddress s [] 5 (.base 0 .none)) 8) = .pageFault 0x4 :=
  ⟨addressOk_withRanges .vex [failingRead], by decide +kernel⟩

/-- `DeviceOperandRefused`: byte 8 is a device's and no byte fails. -/
theorem witness_DeviceOperandRefused :
    let s := withRanges [] [deviceRead]
    AddressOk s .vex (operandAddress s [] 5 (.base 0 .none)) ∧
    translate s.cfg .read (operandByte s.cfg.mode (operandAddress s [] 5 (.base 0 .none)) 8) = .device ∧
    ∀ k < 16, ∀ code, translate s.cfg .read (operandByte s.cfg.mode (operandAddress s [] 5 (.base 0 .none)) k) ≠
      .pageFault code := by
  have h : ∀ k < 16, translate (withRanges [] [deviceRead]).cfg .read (operandByte .mode64 0x1000 k) =
      (if k < 8 then .location (0x1000 + k) else .device) := by decide +kernel
  refine ⟨addressOk_withRanges .vex [deviceRead], by decide +kernel, fun k hk code hc => ?_⟩
  have := (h k hk).symm.trans hc
  split at this <;> cases this

/-- `FaultRecordValues`: a fault of `exec`, and the same as a step. -/
theorem witness_FaultRecordValues :
    faultOf (exec (.aesdec ⟨[.opSize, .lock], none⟩ 1 (.reg 2)) (withText [])) = some (.invalidOpcode 0x400000) ∧
    (withText (0xF0 :: shortBytes)).faultRecord = none ∧
    faultOf (step (withText (0xF0 :: shortBytes))) = some (.invalidOpcode 0x400000) := by decide +kernel

/-- `FaultsIndependentOfData`: two states with other vector registers and memory, and the same operand address; both
fault. -/
theorem witness_FaultsIndependentOfData :
    let s := withRegs 0x1001 0 0
    let s' := { machine 0 0 0 [] with cfg := s.cfg, x := s.x }
    s'.cfg = s.cfg ∧ s'.ip = s.ip ∧ s'.freeCounter = s.freeCounter ∧ s'.v ≠ s.v ∧ s'.mem ≠ s.mem ∧
    operandAddress s' [.opSize] 5 (.base 0 .none) = operandAddress s [.opSize] 5 (.base 0 .none) ∧
    faultOf (exec (.aesdec leg 1 rax) s) = some (.generalProtection 0x400000) := by decide +kernel

/-- `OnlyOperandBytesAreRead`: memory that differs in the byte before the operand and the byte after it only. -/
theorem witness_OnlyOperandBytesAreRead :
    ∀ a, instrSrc (.vaesdec vex 1 2 rax) = .mem a → ∀ k < 16, ∀ p,
      translate (withText []).cfg .read (operandByte (withText []).cfg.mode (operandAddress (withText []) [] 5 a) k) =
        .location p →
      (((withText []).mem.write 0xFFF 0xAA).write 0x1010 0xBB).read p = (withText []).mem.read p := by
  intro a ha k hk p hp
  cases ha
  have h : ∀ k < 16, (((withText []).mem.write 0xFFF 0xAA).write 0x1010 0xBB).read (0x1000 + k) =
      (withText []).mem.read (0x1000 + k) ∧ translate (withText []).cfg .read (operandByte .mode64 0x1000 k) =
        .location (0x1000 + k) := by decide +kernel
  have hq := (h k hk).2.symm.trans hp
  cases hq
  exact (h k hk).1

/-- `ReadIsLittleEndian`. -/
theorem witness_ReadIsLittleEndian : ((withText []).memRead .legacy .ds 0x1000).toOption = some valB := by decide +kernel

/-- `TransformationLaws`, last clause: a state whose columns hold equal bytes. -/
theorem witness_TransformationLaws :
    ∀ c < 4, ∀ r < 4, cell 0xC6C6C6C601010101FFFFFFFF00000000 r c = cell 0xC6C6C6C601010101FFFFFFFF00000000 0 c := by
  decide +kernel

/-- `KeygenDependence`, first clause: sources that differ in doublewords 0 and 2 (K12, K13). -/
theorem witness_KeygenDependence :
    dwordAt 0x00000000FFFFFFFF00000000FFFFFFFF 1 = dwordAt 0x000000009ABCDEF00000000012345678 1 ∧
    dwordAt 0x00000000FFFFFFFF00000000FFFFFFFF 3 = dwordAt 0x000000009ABCDEF00000000012345678 3 := by decide +kernel

/-- `BootEnables`: the state after reset is such a part. -/
theorem witness_BootEnables :
    State.reset.cfg.cpuid1Ecx.getLsbD 25 = true ∧ State.reset.cfg.cpuid1Ecx.getLsbD 28 = true := by decide

/-- `SboxIsAffineOfInverse`, `SegmentRules`: the remaining premises can be met. -/
theorem witness_remaining :
    gmul 0x53 0xCA = 1 ∧ (∀ g, .seg g ∉ [Prefix.opSize, .addrSize]) ∧ (withText []).cfg.mode = .mode64 ∧
    (mode32Text []).cfg.mode = .mode32 := by
  refine ⟨by decide +kernel, fun g h => ?_, rfl, rfl⟩
  simp only [List.mem_cons, List.not_mem_nil, or_false] at h
  rcases h with h | h <;> cases h

/-- Section 3's worked addresses (R70): a negative disp8, and the 32-bit address size of `67`. -/
theorem test_addresses :
    operandAddress (withRegs 0x1000 0 0) [] 5 (.base 0 (.d8 0xF8)) = 0xFF8 ∧
    operandAddress (withRegs 0x100000010 0 0) [.addrSize] 6 (.base 0 (.d8 0xF0)) = 0 ∧
    operandAddress (withRegs 0 0 0) [] 9 (.ripRel 0x100) = 0x400109 := by decide +kernel

end Sys2Proof.Tests
end

section
/-!
PROOF. How the decoder walks a string (`30_encoding.md` R62): what each stage accepts, said once. A string is outside the
twelve rows when some stage accepts nothing that fits it.
-/

namespace Sys2Proof.Laws

/-! ### Prefix bytes and REX bytes -/

@[simp] theorem prefixOf_prefixByte (p : Prefix) : prefixOf (prefixByte p) = some p := by
  cases p with
  | seg s => cases s <;> rfl
  | _ => rfl

/-- One row of a table written as a chain of tests: it answers, or the rest of the table does. -/
theorem ite_some_eq_some {α : Type} {c : Prop} [Decidable c] {a b : α} {rest : Option α}
    (h : (if c then some a else rest) = some b) : (c ∧ a = b) ∨ rest = some b := by
  split_ifs at h with hc
  · exact .inl ⟨hc, Option.some.inj h⟩
  · exact .inr h

theorem prefixOf_eq_some {b : Byte} {p : Prefix} : prefixOf b = some p ↔ b = prefixByte p := by
  constructor
  · intro h
    unfold prefixOf at h
    iterate 11
      obtain ⟨rfl, rfl⟩ | h := ite_some_eq_some h
      · rfl
    cases h
  · rintro rfl
    exact prefixOf_prefixByte p

theorem prefixOf_eq_none {b : Byte} : prefixOf b = none ↔ ∀ p, b ≠ prefixByte p := by
  simp only [Option.eq_none_iff_forall_ne_some, ne_eq, prefixOf_eq_some]

@[simp] theorem isRex_prefixByte (p : Prefix) : isRex (prefixByte p) = false := by
  cases p with
  | seg s => cases s <;> rfl
  | _ => rfl

theorem prefixOf_of_isRex {b : Byte} (h : isRex b = true) : prefixOf b = none :=
  prefixOf_eq_none.2 fun p hp => by simp [hp] at h

/-- Leading bytes that are prefixes are collected however the string goes on. -/
theorem takePrefixes_append (ps : List Prefix) (t : List Byte) :
    takePrefixes (ps.map prefixByte ++ t) = (ps ++ (takePrefixes t).1, (takePrefixes t).2) := by
  induction ps with
  | nil => rfl
  | cons p ps ih => simp [takePrefixes, ih]

/-- The walk over the prefixes ends at the first byte that is none. -/
theorem takePrefixes_append_cons (ps : List Prefix) {b : Byte} (t : List Byte) (hb : prefixOf b = none) :
    takePrefixes (ps.map prefixByte ++ b :: t) = (ps, b :: t) := by
  simp [takePrefixes_append, takePrefixes, hb]

theorem takeRex_of_isRex {b : Byte} (t : List Byte) (hb : isRex b = true) :
    takeRex .mode64 (b :: t) = (some (b.extractLsb' 0 4), t) := by
  simp [takeRex, hb]

theorem takeRex_of_not_isRex (m : Mode) {b : Byte} (t : List Byte) (hb : isRex b = false) :
    takeRex m (b :: t) = (none, b :: t) := by
  simp [takeRex, hb]

theorem takeRex_of_ne_mode64 {m : Mode} (bs : List Byte) (hm : m ≠ .mode64) : takeRex m bs = (none, bs) := by
  cases bs with
  | nil => rfl
  | cons b t => simp [takeRex, hm]

theorem prefixesOnce_iff {ps : List Prefix} : prefixesOnce ps = true ↔ (ps.map Prefix.kind).Nodup :=
  decide_eq_true_iff

theorem addrSizeOk_iff {m : Mode} {ps : List Prefix} : addrSizeOk m ps = true ↔ m = .mode64 ∨ .addrSize ∉ ps := by
  simp [addrSizeOk]

/-! ### The rows that opcode bytes select -/

theorem escape_cases (o : AesOp) : o.escape = 0x38 ∨ o.escape = 0x3A := by cases o <;> decide

theorem vexMap_cases (o : AesOp) : o.vexMap = 2#5 ∨ o.vexMap = 3#5 := by cases o <;> decide

theorem opIn38_eq_some {op : Byte} {o : AesOp} : opIn38 op = some o ↔ o.escape = 0x38 ∧ op = o.opcode := by
  constructor
  · intro h
    unfold opIn38 at h
    iterate 5
      obtain ⟨rfl, rfl⟩ | h := ite_some_eq_some h
      · exact ⟨rfl, rfl⟩
    cases h
  · rintro ⟨hesc, rfl⟩
    cases o with
    | keygen => simp [AesOp.escape] at hesc
    | _ => rfl

theorem opIn3A_eq_some {op : Byte} {o : AesOp} : opIn3A op = some o ↔ o = .keygen ∧ op = 0xDF := by
  simp [opIn3A, and_comm, eq_comm]

/-- An escape byte and an opcode byte select an operation exactly when they are the bytes of its legacy row (R60, R65). -/
theorem legacyOp_eq_some {esc op : Byte} {o : AesOp} :
    legacyOp esc op = some o ↔ esc = o.escape ∧ op = o.opcode := by
  unfold legacyOp
  split_ifs with h38 h3A
  · subst h38
    rw [opIn38_eq_some, eq_comm (a := o.escape)]
  · subst h3A
    rw [opIn3A_eq_some]
    cases o <;> simp [AesOp.escape, AesOp.opcode]
  · refine iff_of_false (by simp) ?_
    rintro ⟨rfl, -⟩
    exact (escape_cases o).elim h38 h3A

/-- A map and an opcode byte select an operation exactly when they are those of its VEX row (R60, R72). -/
theorem vexOp_eq_some {mmmmm : BitVec 5} {op : Byte} {o : AesOp} :
    vexOp mmmmm op = some o ↔ mmmmm = o.vexMap ∧ op = o.opcode := by
  unfold vexOp
  split_ifs with h2 h3
  · subst h2
    rw [opIn38_eq_some]
    cases o <;> simp [AesOp.escape, AesOp.vexMap]
  · subst h3
    rw [opIn3A_eq_some]
    cases o <;> simp [AesOp.vexMap, AesOp.opcode]
  · refine iff_of_false (by simp) ?_
    rintro ⟨rfl, -⟩
    exact (vexMap_cases o).elim h2 h3

theorem opcode_cases (o : AesOp) :
    o.opcode = 0xDB ∨ o.opcode = 0xDC ∨ o.opcode = 0xDD ∨ o.opcode = 0xDE ∨ o.opcode = 0xDF := by
  cases o <;> decide

theorem opcode_of_escape_3A {o : AesOp} (h : o.escape = 0x3A) : o.opcode = 0xDF := by
  cases o with
  | keygen => rfl
  | _ => simp [AesOp.escape] at h

theorem opcode_of_vexMap_3 {o : AesOp} (h : o.vexMap = 3#5) : o.opcode = 0xDF := by
  cases o with
  | keygen => rfl
  | _ => simp [AesOp.vexMap] at h

/-- In map 0F38 only opcode `DB` reserves `vvvv`; it is an operand of the others (R72, R78). -/
theorem isRound_of_vexMap_2 {o : AesOp} (h : o.vexMap = 2#5) (hop : o.opcode ≠ 0xDB) : o.isRound = true := by
  cases o with
  | imc => exact absurd rfl hop
  | keygen => simp [AesOp.vexMap] at h
  | _ => rfl

/-! ### What each stage accepts -/

section Accepts

variable {m : Mode} {ps : List Prefix} {rex : Option (BitVec 4)} {bs t : List Byte} {r : Instr × List Byte}

/-- A legacy string after `0F` is accepted where the prefixes are those of R63, and an escape and opcode byte of some row
are followed by its operands. -/
theorem decodeLegacy_eq_ok : decodeLegacy m ps rex t = .ok r ↔
    .repne ∉ ps ∧ .rep ∉ ps ∧ .opSize ∈ ps ∧
    ∃ o t', t = o.escape :: o.opcode :: t' ∧ decodeLegacyTail m ps rex o t' = .ok r := by
  constructor
  · intro h
    unfold decodeLegacy at h
    split_ifs at h with hrep hop
    simp only [Bool.or_eq_true, List.contains_eq_mem, decide_eq_true_eq, not_or] at hrep
    refine ⟨hrep.1, hrep.2, by simpa using hop, ?_⟩
    split at h
    · cases h
    · split_ifs at h
      split at h
      · cases h
      · split at h
        · cases h
        · next o ho =>
          obtain ⟨rfl, rfl⟩ := legacyOp_eq_some.1 ho
          exact ⟨o, _, rfl, h⟩
  · rintro ⟨hrepne, hrep, hop, o, t', rfl, h⟩
    have ho : legacyOp o.escape o.opcode = some o := legacyOp_eq_some.2 ⟨rfl, rfl⟩
    have hesc : o.escape ≠ 0x38 → o.escape = 0x3A := (escape_cases o).resolve_left
    simpa [decodeLegacy, hrepne, hrep, hop, ho, h] using hesc

/-- A VEX string after `C4` is accepted where it is not LES, `pp` is `01`, and the map and opcode byte of some row are
followed by its operands. -/
theorem decodeVex_eq_ok : decodeVex m ps rex t = .ok r ↔
    ∃ p1 p2 o t', t = p1 :: p2 :: o.opcode :: t' ∧ (m = .mode32 → p1.extractLsb' 6 2 = 3#2) ∧
      p2.extractLsb' 0 2 = 1#2 ∧ p1.extractLsb' 0 5 = o.vexMap ∧ decodeVexTail m ps rex o p1 p2 t' = .ok r := by
  constructor
  · intro h
    unfold decodeVex at h
    split at h
    · cases h
    · split_ifs at h with hles
      split at h
      · cases h
      · split_ifs at h with hpp
        split at h
        · cases h
        · split at h
          · cases h
          · next o ho =>
            obtain ⟨hmap, rfl⟩ := vexOp_eq_some.1 ho
            exact ⟨_, _, o, _, rfl, by simpa using hles, by simpa using hpp, hmap, h⟩
  · rintro ⟨p1, p2, o, t', rfl, hles, hpp, hmap, h⟩
    have ho : vexOp (p1.extractLsb' 0 5) o.opcode = some o := vexOp_eq_some.2 ⟨hmap, rfl⟩
    have hles' : ¬ (m = .mode32 ∧ p1.extractLsb' 6 2 ≠ 3#2) := fun ⟨hm, hne⟩ => hne (hles hm)
    simp [decodeVex, hles', hpp, ho, h]

/-- In Mode32 bit 6 of `P2` is set wherever `vvvv` is an operand (R74). -/
theorem decodeVexTail_mode32 {o : AesOp} {p1 p2 : Byte} (h : decodeVexTail .mode32 ps rex o p1 p2 t = .ok r)
    (ho : o.isRound = true) : p2.getLsbD 6 = true := by
  unfold decodeVexTail at h
  split_ifs at h with hvvvv
  simpa [ho] using hvvvv

/-- After the prefixes and REX there stands `0F` or `C4` (R62). -/
theorem decodeBody_eq_ok : decodeBody m ps rex bs = .ok r ↔
    ∃ t, (bs = 0x0F :: t ∧ decodeLegacy m ps rex t = .ok r) ∨ (bs = 0xC4 :: t ∧ decodeVex m ps rex t = .ok r) := by
  cases bs with
  | nil => simp [decodeBody]
  | cons b t =>
    simp only [decodeBody]
    split_ifs with h0F hC4
    · simp [h0F]
    · simp [hC4]
    all_goals
      refine iff_of_false (by simp) ?_
      rintro ⟨_, ⟨ht, -⟩ | ⟨ht, -⟩⟩
      · exact h0F (List.cons.inj ht).1
      · exact hC4 (List.cons.inj ht).1

/-- The decoder accepts what its last stage accepts, in a modelled mode and under prefixes that R63 admits. -/
theorem decode_eq_ok : decode m bs = .ok r ↔
    m.modelled = true ∧ prefixesOnce (takePrefixes bs).1 = true ∧ addrSizeOk m (takePrefixes bs).1 = true ∧
    decodeBody m (takePrefixes bs).1 (takeRex m (takePrefixes bs).2).1 (takeRex m (takePrefixes bs).2).2 = .ok r := by
  unfold decode
  split_ifs <;> simp_all

/-! ### Strings after known prefixes -/

/-- No opcode starts with a REX byte. -/
theorem decodeBody_isRex_ne_ok {b : Byte} (hb : isRex b = true) : decodeBody m ps rex (b :: t) ≠ .ok r := by
  intro h
  obtain ⟨_, ⟨ht, -⟩ | ⟨ht, -⟩⟩ := decodeBody_eq_ok.1 h <;> cases ht <;> simp [isRex] at hb

/-- A REX byte after the prefixes belongs to a Mode64 instruction, whose opcode follows at once (R62, R64). -/
theorem decodeBody_of_decode_rex {b : Byte} (hb : isRex b = true)
    (h : decode m (ps.map prefixByte ++ b :: t) = .ok r) :
    m = .mode64 ∧ decodeBody m ps (some (b.extractLsb' 0 4)) t = .ok r := by
  obtain ⟨-, -, -, hbody⟩ := decode_eq_ok.1 h
  rw [takePrefixes_append_cons ps t (prefixOf_of_isRex hb)] at hbody
  by_cases hm : m = .mode64
  · subst hm
    rw [takeRex_of_isRex t hb] at hbody
    exact ⟨rfl, hbody⟩
  · rw [takeRex_of_ne_mode64 _ hm] at hbody
    exact absurd hbody (decodeBody_isRex_ne_ok hb)

/-- What the decoder accepts after prefixes, and a REX byte or none, starts with an opcode under those prefixes. -/
theorem decodeBody_of_decode {rexBytes : List Byte} {b : Byte}
    (hrex : rexBytes = [] ∨ ∃ b, isRex b = true ∧ rexBytes = [b]) (hp : prefixOf b = none) (hb : isRex b = false)
    (h : decode m (ps.map prefixByte ++ (rexBytes ++ b :: t)) = .ok r) :
    ∃ rex, decodeBody m ps rex (b :: t) = .ok r := by
  obtain rfl | ⟨x, hx, rfl⟩ := hrex
  · obtain ⟨-, -, -, hbody⟩ := decode_eq_ok.1 h
    rw [List.nil_append, takePrefixes_append_cons ps t hp, takeRex_of_not_isRex m t hb] at hbody
    exact ⟨none, hbody⟩
  · exact ⟨_, (decodeBody_of_decode_rex hx h).2⟩

theorem decodeLegacy_of_decode {rexBytes : List Byte} (hrex : rexBytes = [] ∨ ∃ b, isRex b = true ∧ rexBytes = [b])
    (h : decode m (ps.map prefixByte ++ (rexBytes ++ 0x0F :: t)) = .ok r) :
    ∃ rex, decodeLegacy m ps rex t = .ok r := by
  obtain ⟨rex, hbody⟩ := decodeBody_of_decode hrex (by decide) (by decide) h
  exact ⟨rex, by simpa [decodeBody] using hbody⟩

theorem decodeVex_of_decode {rexBytes : List Byte} (hrex : rexBytes = [] ∨ ∃ b, isRex b = true ∧ rexBytes = [b])
    (h : decode m (ps.map prefixByte ++ (rexBytes ++ 0xC4 :: t)) = .ok r) :
    ∃ rex, decodeVex m ps rex t = .ok r := by
  obtain ⟨rex, hbody⟩ := decodeBody_of_decode hrex (by decide) (by decide) h
  exact ⟨rex, by simpa [decodeBody] using hbody⟩

end Accepts

end Sys2Proof.Laws
end

section
/-!
PROOF. `OutsideStringsRejected`: each clause contradicts what the decoder's stage for it accepts.
-/

namespace Sys2Proof.Proofs

open Sys2Proof.Laws

theorem exists_error_of_ne_ok {ε α : Type} {x : Except ε α} (h : ∀ r, x ≠ .ok r) : ∃ err, x = .error err := by
  cases x with
  | error err => exact ⟨err, rfl⟩
  | ok r => exact absurd rfl (h r)

section Clauses

variable {m : Mode} {ps : List Prefix} {bs rex : List Byte} {r : Instr × List Byte}

/-- Prefix bytes in front of a string are among the prefixes that the decoder collects, so R63's tests on those hold of
them. -/
theorem prefixes_of_decode (h : decode m (ps.map prefixByte ++ bs) = .ok r) :
    (ps.map Prefix.kind).Nodup ∧ (m = .mode32 → .addrSize ∉ ps) := by
  obtain ⟨-, honce, haddr, -⟩ := decode_eq_ok.1 h
  rw [takePrefixes_append] at honce haddr
  rw [prefixesOnce_iff, List.map_append] at honce
  refine ⟨honce.of_append_left, ?_⟩
  rintro rfl hmem
  simp [addrSizeOk_iff, hmem] at haddr

/-- The byte after a REX byte is `0F` or `C4`. -/
theorem byte_after_rex {b b' : Byte} (hb : isRex b = true)
    (h : decode m (ps.map prefixByte ++ b :: b' :: bs) = .ok r) : b' = 0x0F ∨ b' = 0xC4 := by
  obtain ⟨_, ⟨ht, -⟩ | ⟨ht, -⟩⟩ := decodeBody_eq_ok.1 (decodeBody_of_decode_rex hb h).2
  · cases ht
    exact .inl rfl
  · cases ht
    exact .inr rfl

variable (hrex : rex = [] ∨ ∃ b, isRex b = true ∧ rex = [b])
include hrex

theorem legacy_prefixes_of_decode (h : decode m (ps.map prefixByte ++ (rex ++ 0x0F :: bs)) = .ok r) :
    .repne ∉ ps ∧ .rep ∉ ps ∧ .opSize ∈ ps := by
  obtain ⟨_, hleg⟩ := decodeLegacy_of_decode hrex h
  obtain ⟨hrepne, hrep, hop, -⟩ := decodeLegacy_eq_ok.1 hleg
  exact ⟨hrepne, hrep, hop⟩

theorem escape_of_decode {esc : Byte} (h : decode m (ps.map prefixByte ++ (rex ++ 0x0F :: esc :: bs)) = .ok r) :
    ∃ o : AesOp, esc = o.escape := by
  obtain ⟨_, hleg⟩ := decodeLegacy_of_decode hrex h
  obtain ⟨-, -, -, o, _, ht, -⟩ := decodeLegacy_eq_ok.1 hleg
  cases ht
  exact ⟨o, rfl⟩

theorem legacy_row_of_decode {esc op : Byte}
    (h : decode m (ps.map prefixByte ++ (rex ++ 0x0F :: esc :: op :: bs)) = .ok r) :
    ∃ o : AesOp, o.escape = esc ∧ o.opcode = op := by
  obtain ⟨_, hleg⟩ := decodeLegacy_of_decode hrex h
  obtain ⟨-, -, -, o, _, ht, -⟩ := decodeLegacy_eq_ok.1 hleg
  cases ht
  exact ⟨o, rfl, rfl⟩

theorem not_les_of_decode {p1 : Byte} (h : decode .mode32 (ps.map prefixByte ++ (rex ++ 0xC4 :: p1 :: bs)) = .ok r) :
    p1.extractLsb' 6 2 = 3#2 := by
  obtain ⟨_, hvex⟩ := decodeVex_of_decode hrex h
  obtain ⟨_, _, _, _, ht, hles, -⟩ := decodeVex_eq_ok.1 hvex
  cases ht
  exact hles rfl

theorem pp_map_of_decode {p1 p2 : Byte} (h : decode m (ps.map prefixByte ++ (rex ++ 0xC4 :: p1 :: p2 :: bs)) = .ok r) :
    p2.extractLsb' 0 2 = 1#2 ∧ ∃ o : AesOp, p1.extractLsb' 0 5 = o.vexMap := by
  obtain ⟨_, hvex⟩ := decodeVex_of_decode hrex h
  obtain ⟨_, _, o, _, ht, -, hpp, hmap, -⟩ := decodeVex_eq_ok.1 hvex
  cases ht
  exact ⟨hpp, o, hmap⟩

theorem vex_row_of_decode {p1 p2 op : Byte}
    (h : decode m (ps.map prefixByte ++ (rex ++ 0xC4 :: p1 :: p2 :: op :: bs)) = .ok r) :
    ∃ o : AesOp, o.vexMap = p1.extractLsb' 0 5 ∧ o.opcode = op ∧
      (m = .mode32 → o.isRound = true → p2.getLsbD 6 = true) := by
  obtain ⟨_, hvex⟩ := decodeVex_of_decode hrex h
  obtain ⟨_, _, o, _, ht, -, -, hmap, htail⟩ := decodeVex_eq_ok.1 hvex
  cases ht
  refine ⟨o, hmap.symm, rfl, ?_⟩
  rintro rfl
  exact decodeVexTail_mode32 htail

end Clauses

/-- Settles O6: every clause denies what an accepted string satisfies at the stage that reads the bytes in question. -/
theorem outsideStringsRejected : Obligations.OutsideStringsRejected := by
  intro m ps rex bs hrex
  refine ⟨?refusedMode, ?repeatedPrefix, ?addrSize32, ?rex32, ?rexNotLast, ?otherByte, ?legacyPrefix, ?escape,
    ?opcode38, ?opcode3A, ?les, ?ppOrMap, ?vexOpcode2, ?vexOpcode3, ?vvvv32⟩
  case refusedMode =>
    refine fun hm => exists_error_of_ne_ok fun r h => ?_
    obtain ⟨hmodelled, -⟩ := decode_eq_ok.1 h
    exact Bool.false_ne_true (hm.symm.trans hmodelled)
  case repeatedPrefix =>
    exact fun hdup => exists_error_of_ne_ok fun r h => hdup (prefixes_of_decode h).1
  case addrSize32 =>
    exact fun hmem => exists_error_of_ne_ok fun r h => (prefixes_of_decode h).2 rfl hmem
  case rex32 =>
    refine fun b hb => exists_error_of_ne_ok fun r h => ?_
    obtain ⟨hm, -⟩ := decodeBody_of_decode_rex hb h
    cases hm
  case rexNotLast =>
    refine fun b b' hb hb' => exists_error_of_ne_ok fun r h => ?_
    have hprefixOrRex : prefixOf b' ≠ none ∨ isRex b' = true := by
      obtain hb' | ⟨p, rfl⟩ := hb'
      · exact .inr hb'
      · exact .inl (by simp)
    obtain rfl | rfl := byte_after_rex hb h <;> exact absurd hprefixOrRex (by decide)
  case otherByte =>
    refine fun b hp hb h0F hC4 => exists_error_of_ne_ok fun r h => ?_
    obtain ⟨_, hbody⟩ := decodeBody_of_decode hrex (prefixOf_eq_none.2 hp) hb h
    obtain ⟨_, ⟨ht, -⟩ | ⟨ht, -⟩⟩ := decodeBody_eq_ok.1 hbody
    · exact h0F (List.cons.inj ht).1
    · exact hC4 (List.cons.inj ht).1
  case legacyPrefix =>
    refine fun hps => exists_error_of_ne_ok fun r h => ?_
    obtain ⟨hrepne, hrep, hop⟩ := legacy_prefixes_of_decode hrex h
    exact hps.elim hrepne (·.elim hrep (· hop))
  case escape =>
    refine fun esc h38 h3A => exists_error_of_ne_ok fun r h => ?_
    obtain ⟨o, rfl⟩ := escape_of_decode hrex h
    exact (escape_cases o).elim h38 h3A
  case opcode38 =>
    refine fun op hB hC hD hE hF => exists_error_of_ne_ok fun r h => ?_
    obtain ⟨o, -, rfl⟩ := legacy_row_of_decode hrex h
    obtain ho | ho | ho | ho | ho := opcode_cases o <;> contradiction
  case opcode3A =>
    refine fun op hF => exists_error_of_ne_ok fun r h => ?_
    obtain ⟨o, hesc, rfl⟩ := legacy_row_of_decode hrex h
    exact hF (opcode_of_escape_3A hesc)
  case les =>
    exact fun p1 hles => exists_error_of_ne_ok fun r h => hles (not_les_of_decode hrex h)
  case ppOrMap =>
    refine fun p1 p2 hbad => exists_error_of_ne_ok fun r h => ?_
    obtain ⟨hpp, o, hmap⟩ := pp_map_of_decode hrex h
    rw [hmap] at hbad
    exact hbad.elim (· hpp) fun ⟨h2, h3⟩ => (vexMap_cases o).elim h2 h3
  case vexOpcode2 =>
    refine fun p1 p2 op _ hB hC hD hE hF => exists_error_of_ne_ok fun r h => ?_
    obtain ⟨o, -, rfl, -⟩ := vex_row_of_decode hrex h
    obtain ho | ho | ho | ho | ho := opcode_cases o <;> contradiction
  case vexOpcode3 =>
    refine fun p1 p2 op hmap hF => exists_error_of_ne_ok fun r h => ?_
    obtain ⟨o, ho, rfl, -⟩ := vex_row_of_decode hrex h
    exact hF (opcode_of_vexMap_3 (ho.trans hmap))
  case vvvv32 =>
    refine fun p1 p2 op hbit hmap hop => exists_error_of_ne_ok fun r h => ?_
    obtain ⟨o, ho, rfl, hvvvv⟩ := vex_row_of_decode hrex h
    have hround : o.isRound = true := isRound_of_vexMap_2 (ho.trans hmap) hop
    exact Bool.false_ne_true (hbit.symm.trans (hvvvv rfl hround))

end Sys2Proof.Proofs
end

section
/-!
PROOF. The two shapes of `exec` (Machine/Shape.lean), said once for all twelve instructions: what a completing instruction
made of the state, and what an instruction reads.
-/

namespace Sys2Proof.Laws

open Sys2Proof.Machine

/-! ### The shape of every instruction -/

/-- The six legacy instructions are `legacyInstr` with a result made from the destination and the operand (R120, R130, R140,
R150, R160, R170). -/
theorem exec_eq_legacyInstr {i : Instr} (hf : instrForm i = .legacy) :
    ∃ (e : LegEnc) (imms : Nat) (result : Xmm → Xmm → Xmm), i.len = legacyLen e (instrSrc i) imms ∧
      ∀ s, exec i s = legacyInstr e (instrDest i) (instrSrc i) imms (result (s.xmm (instrDest i))) s := by
  cases i with
  | aesdec e d src => exact ⟨e, 0, aesDec, rfl, fun _ => rfl⟩
  | aesdeclast e d src => exact ⟨e, 0, aesDecLast, rfl, fun _ => rfl⟩
  | aesenc e d src => exact ⟨e, 0, aesEnc, rfl, fun _ => rfl⟩
  | aesenclast e d src => exact ⟨e, 0, aesEncLast, rfl, fun _ => rfl⟩
  | aesimc e d src => exact ⟨e, 0, fun _ => aesImc, rfl, fun _ => rfl⟩
  | aeskeygenassist e d src imm => exact ⟨e, 1, fun _ operand => aesKeygen operand imm, rfl, fun _ => rfl⟩
  | _ => cases hf

/-- The six VEX instructions are `vexInstr` with a result made from one register, which the two key instructions do not use,
and the operand (R121, R131, R141, R151, R161, R171). -/
theorem exec_eq_vexInstr {i : Instr} (hf : instrForm i = .vex) :
    ∃ (e : VexEnc) (round bad : Bool) (a : VNum) (imms : Nat) (result : Xmm → Xmm → Xmm),
      i.len = vexLen e (instrSrc i) imms ∧
      ∀ s, exec i s = vexInstr e round bad (instrDest i) (instrSrc i) imms (result (s.xmm a)) s := by
  cases i with
  | vaesdec e d a src => exact ⟨e, true, false, a, 0, aesDec, rfl, fun _ => rfl⟩
  | vaesdeclast e d a src => exact ⟨e, true, false, a, 0, aesDecLast, rfl, fun _ => rfl⟩
  | vaesenc e d a src => exact ⟨e, true, false, a, 0, aesEnc, rfl, fun _ => rfl⟩
  | vaesenclast e d a src => exact ⟨e, true, false, a, 0, aesEncLast, rfl, fun _ => rfl⟩
  | vaesimc e vvvv d src => exact ⟨e, false, vvvv != 0b1111#4, d, 0, fun _ => aesImc, rfl, fun _ => rfl⟩
  | vaeskeygenassist e vvvv d src imm =>
    exact ⟨e, false, vvvv != 0b1111#4, d, 1, fun _ operand => aesKeygen operand imm, rfl, fun _ => rfl⟩
  | _ => cases hf

/-! ### What a completing instruction did -/

theorem exec_next_legacy {i : Instr} {s t : State} (hf : instrForm i = .legacy) (h : exec i s = .next t) :
    ∃ r, t = (s.writeLegacy (instrDest i) r).complete i.len := by
  obtain ⟨e, imms, result, hlen, hexec⟩ := exec_eq_legacyInstr hf
  obtain ⟨-, operand, -, rfl⟩ := legacyInstr_next.1 ((hexec s).symm.trans h)
  exact ⟨_, by rw [hlen]⟩

theorem exec_next_vex {i : Instr} {s t : State} (hf : instrForm i = .vex) (h : exec i s = .next t) :
    ∃ r, t = (s.writeVex (instrDest i) r).complete i.len := by
  obtain ⟨e, round, bad, a, imms, result, hlen, hexec⟩ := exec_eq_vexInstr hf
  obtain ⟨-, operand, -, rfl⟩ := vexInstr_next.1 ((hexec s).symm.trans h)
  exact ⟨_, by rw [hlen]⟩

/-- An instruction that completes wrote its destination in one of the two ways and moved on by its length. -/
theorem exec_next {i : Instr} {s t : State} (h : exec i s = .next t) :
    ∃ r, t = (s.writeLegacy (instrDest i) r).complete i.len ∨ t = (s.writeVex (instrDest i) r).complete i.len := by
  cases hf : instrForm i with
  | legacy =>
    obtain ⟨r, ht⟩ := exec_next_legacy hf h
    exact ⟨r, .inl ht⟩
  | vex =>
    obtain ⟨r, ht⟩ := exec_next_vex hf h
    exact ⟨r, .inr ht⟩

theorem checkLegacy_of_not_modelled {s : State} (hm : s.cfg.mode.modelled = false) (e : LegEnc) :
    s.checkLegacy e = some (.refuse (.modeNotInScope s.cfg.mode)) :=
  if_pos (by rw [hm]; rfl)

theorem checkVex_of_not_modelled {s : State} (hm : s.cfg.mode.modelled = false) (e : VexEnc) (round bad : Bool) :
    s.checkVex e round bad = some (.refuse (.modeNotInScope s.cfg.mode)) :=
  if_pos (by rw [hm]; rfl)

/-- No instruction executes in a mode that the spec refuses (R5). -/
theorem exec_of_not_modelled {s : State} (hm : s.cfg.mode.modelled = false) (i : Instr) :
    exec i s = .refused (.modeNotInScope s.cfg.mode) := by
  cases hf : instrForm i with
  | legacy =>
    obtain ⟨e, imms, result, -, hexec⟩ := exec_eq_legacyInstr hf
    exact (hexec s).trans (legacyInstr_of_check (checkLegacy_of_not_modelled hm e))
  | vex =>
    obtain ⟨e, round, bad, a, imms, result, -, hexec⟩ := exec_eq_vexInstr hf
    exact (hexec s).trans (vexInstr_of_check (checkVex_of_not_modelled hm e round bad))

/-! ### Registers that are not written -/

theorem vector_get_set_of_ne (v : Vector VReg 16) {d j : VNum} (r : VReg) (h : j ≠ d) :
    (v.set d.val r).get j = v.get j :=
  Vector.getElem_set_ne _ _ (Fin.val_ne_of_ne h.symm)

/-- Bits of `V[i]` from 128 on come from the upper lanes. -/
theorem vbit_of_le {s : State} {i : VNum} {k : Nat} (hk : 128 ≤ k) :
    s.vbit i k = ((s.upper i).getD (k / 128 - 1) 0).getLsbD (k % 128) :=
  if_neg (Nat.not_lt.2 hk)

/-- The number that the specification writes for `ip + len` is what the model computes on words (R27). -/
theorem advancedIp_eq_nextIp (s : State) (len : Nat) : advancedIp s len = s.nextIp len := by
  apply BitVec.eq_of_toNat_eq
  unfold advancedIp
  rw [BitVec.toNat_ofNat]
  split_ifs with hm
  · rw [nextIp_toNat_mode32 hm]
    omega
  · rw [nextIp_toNat hm, Nat.mod_mod]

/-! ### What an instruction reads -/

/-- The operand read depends on the vector registers through their low 128 bits only. -/
theorem src2_congr_v {s : State} {w : Vector VReg 16} (hw : ∀ j : VNum, (w.get j).xmm = s.xmm j) (f : Form)
    (ps : List Prefix) (len : Nat) (src : RM) : State.src2 { s with v := w } f ps len src = s.src2 f ps len src := by
  cases src with
  | reg j => exact congrArg Except.ok (hw j)
  | mem a => rfl

/-- The state with other contents in the flags register and in `MXCSR`. -/
def withFlags (flags : Word) (csr : BitVec 32) (s : State) : State := { s with rflags := flags, mxcsr := csr }

@[simp] theorem withFlags_checkLegacy (flags : Word) (csr : BitVec 32) (s : State) (e : LegEnc) :
    (withFlags flags csr s).checkLegacy e = s.checkLegacy e := rfl

@[simp] theorem withFlags_checkVex (flags : Word) (csr : BitVec 32) (s : State) (e : VexEnc) (round bad : Bool) :
    (withFlags flags csr s).checkVex e round bad = s.checkVex e round bad := rfl

@[simp] theorem withFlags_src2 (flags : Word) (csr : BitVec 32) (s : State) (f : Form) (ps : List Prefix) (len : Nat)
    (src : RM) : (withFlags flags csr s).src2 f ps len src = s.src2 f ps len src := by
  cases src <;> rfl

theorem mapOutcome_stop (g : State → State) (stop : Stop) : mapOutcome g stop.outcome = stop.outcome := by
  cases stop <;> rfl

theorem legacyInstr_withFlags (e : LegEnc) (d : VNum) (src : RM) (imms : Nat) (result : Xmm → Xmm) (s : State)
    (flags : Word) (csr : BitVec 32) : legacyInstr e d src imms result (withFlags flags csr s) =
      mapOutcome (withFlags flags csr) (legacyInstr e d src imms result s) := by
  simp only [legacyInstr, withFlags_checkLegacy, withFlags_src2]
  cases s.checkLegacy e with
  | some stop => exact (mapOutcome_stop _ stop).symm
  | none =>
    cases s.src2 .legacy e.prefixes (legacyLen e src imms) src with
    | error stop => exact (mapOutcome_stop _ stop).symm
    | ok operand => rfl

theorem vexInstr_withFlags (e : VexEnc) (round bad : Bool) (d : VNum) (src : RM) (imms : Nat) (result : Xmm → Xmm)
    (s : State) (flags : Word) (csr : BitVec 32) : vexInstr e round bad d src imms result (withFlags flags csr s) =
      mapOutcome (withFlags flags csr) (vexInstr e round bad d src imms result s) := by
  simp only [vexInstr, withFlags_checkVex, withFlags_src2]
  cases s.checkVex e round bad with
  | some stop => exact (mapOutcome_stop _ stop).symm
  | none =>
    cases s.src2 .vex e.prefixes (vexLen e src imms) src with
    | error stop => exact (mapOutcome_stop _ stop).symm
    | ok operand => rfl

/-- No instruction reads the flags register or `MXCSR` (R28). -/
theorem exec_withFlags (i : Instr) (s : State) (flags : Word) (csr : BitVec 32) :
    exec i (withFlags flags csr s) = mapOutcome (withFlags flags csr) (exec i s) := by
  cases hf : instrForm i with
  | legacy =>
    obtain ⟨e, imms, result, -, hexec⟩ := exec_eq_legacyInstr hf
    rw [hexec, hexec]
    exact legacyInstr_withFlags ..
  | vex =>
    obtain ⟨e, round, bad, a, imms, result, -, hexec⟩ := exec_eq_vexInstr hf
    rw [hexec, hexec]
    exact vexInstr_withFlags ..

end Sys2Proof.Laws
end

section
/-!
PROOF. Lengths through the decoder (`30_encoding.md` R62): what each stage takes off the string is what `Instr.len` counts
for it.
-/

namespace Sys2Proof.Laws

open Sys2Proof.Machine

/-! ### The parts of an encoding -/

theorem takePrefixes_length (bs : List Byte) :
    (takePrefixes bs).1.length + (takePrefixes bs).2.length = bs.length := by
  induction bs with
  | nil => rfl
  | cons b t ih =>
    unfold takePrefixes
    split
    · simp only [List.length_cons]
      omega
    · simp

theorem takeRex_length (m : Mode) (bs : List Byte) :
    (takeRex m bs).1.isSome.toNat + (takeRex m bs).2.length = bs.length := by
  cases bs with
  | nil => rfl
  | cons b t =>
    simp only [takeRex]
    split_ifs <;> simp [Nat.add_comm]

theorem takeLe32_length {bs t : List Byte} {d : BitVec 32} (h : takeLe32 bs = some (d, t)) :
    bs.length = 4 + t.length := by
  unfold takeLe32 at h
  split at h
  · cases h
    simp only [List.length_cons]
    omega
  · cases h

theorem takeDisp_length {mod : BitVec 2} {bs t : List Byte} {d : Disp} (h : takeDisp mod bs = some (d, t)) :
    bs.length = d.size + t.length := by
  unfold takeDisp at h
  split_ifs at h
  · cases h
    simp [Disp.size]
  · split at h
    · cases h
    · cases h
      simp [Disp.size, Nat.add_comm]
  · split at h
    · cases h
    · next hd =>
      cases h
      exact takeLe32_length hd

/-- The SIB byte and the displacement are what a memory operand has beside ModRM (R67, R68). -/
theorem decodeSib_length {x b : Bool} {mod : BitVec 2} {bs t : List Byte} {a : Addr}
    (h : decodeSib x b mod bs = .ok (a, t)) : 1 + bs.length = (RM.mem a).size + t.length := by
  unfold decodeSib at h
  split at h
  · cases h
  · dsimp only at h
    split at h
    · split at h
      · cases h
      · next hd =>
        cases h
        simp only [RM.size, List.length_cons, takeLe32_length hd]
        omega
    · split at h
      · cases h
      · next hd =>
        cases h
        simp only [RM.size, List.length_cons, takeDisp_length hd]
        omega

theorem decodeMem_length {m : Mode} {x b : Bool} {mod : BitVec 2} {rm : BitVec 3} {bs t : List Byte} {a : Addr}
    (h : decodeMem m x b mod rm bs = .ok (a, t)) : 1 + bs.length = (RM.mem a).size + t.length := by
  unfold decodeMem at h
  split at h
  · exact decodeSib_length h
  split at h <;> split at h
  · cases h
  · next d _ hd =>
    have hsize : (RM.mem (if m = .mode64 then .ripRel d else .abs d)).size = 5 := by split_ifs <;> rfl
    cases h
    rw [hsize, takeLe32_length hd]
    omega
  · cases h
  · next hd =>
    cases h
    simp only [RM.size, takeDisp_length hd]
    omega

theorem decodeModRM_length {m : Mode} {r x b : Bool} {bs t : List Byte} {d : VNum} {src : RM}
    (h : decodeModRM m r x b bs = .ok (d, src, t)) : bs.length = src.size + t.length := by
  unfold decodeModRM at h
  split at h
  · cases h
  · split_ifs at h
    · cases h
      simp [RM.size, Nat.add_comm]
    · split at h
      · cases h
      · next hmem =>
        cases h
        rw [← decodeMem_length hmem, List.length_cons, Nat.add_comm]

theorem takeImm_length {o : AesOp} {bs t : List Byte} {imm : Byte} (h : takeImm o bs = .ok (imm, t)) :
    bs.length = (immBytes o imm).length + t.length := by
  cases o with
  | keygen =>
    cases bs with
    | nil => cases h
    | cons b bs =>
      cases h
      simp [immBytes, Nat.add_comm]
  | _ =>
    cases h
    simp [immBytes]

/-! ### A whole instruction -/

theorem legacyInstrOf_len (o : AesOp) (e : LegEnc) (d : VNum) (src : RM) (imm : Byte) :
    (legacyInstrOf o e d src imm).len = legacyLen e src (immBytes o imm).length := by
  cases o <;> rfl

theorem vexInstrOf_len (o : AesOp) (e : VexEnc) (vvvv : BitVec 4) (d : VNum) (src : RM) (imm : Byte) :
    (vexInstrOf o e vvvv d src imm).len = vexLen e src (immBytes o imm).length := by
  cases o <;> rfl

/-- Every operand has its ModRM byte. -/
theorem rmSize_pos (src : RM) : 0 < src.size := by
  rcases src with j | ⟨d | d | ⟨b, d⟩ | ⟨b, i, s, d⟩ | ⟨i, s, d⟩⟩ <;> simp only [RM.size] <;> omega

section Stages

variable {m : Mode} {ps : List Prefix} {rex : Option (BitVec 4)} {bs t : List Byte} {i : Instr}

/-- What follows the opcode of a legacy encoding is the operands and the immediate of the instruction decoded. -/
theorem decodeLegacyTail_ok {o : AesOp} (h : decodeLegacyTail m ps rex o bs = .ok (i, t)) :
    ∃ (src : RM) (imm : Byte), i.len = ps.length + rex.isSome.toNat + 3 + src.size + (immBytes o imm).length ∧
      bs.length = src.size + (immBytes o imm).length + t.length := by
  unfold decodeLegacyTail at h
  dsimp only at h
  split at h
  · cases h
  · next d src t' hmodrm =>
    split at h
    · cases h
    · next imm t'' himm =>
      cases h
      refine ⟨src, imm, ?_, ?_⟩
      · rw [legacyInstrOf_len, legacyLen, Option.isSome_map]
      · rw [decodeModRM_length hmodrm, takeImm_length himm, Nat.add_assoc]

/-- What follows the opcode of a VEX encoding is the operands and the immediate of the instruction decoded. -/
theorem decodeVexTail_ok {o : AesOp} {p1 p2 : Byte} (h : decodeVexTail m ps rex o p1 p2 bs = .ok (i, t)) :
    ∃ (src : RM) (imm : Byte), i.len = ps.length + rex.isSome.toNat + 4 + src.size + (immBytes o imm).length ∧
      bs.length = src.size + (immBytes o imm).length + t.length := by
  unfold decodeVexTail at h
  split_ifs at h
  split at h
  · cases h
  · next d src t' hmodrm =>
    split at h
    · cases h
    · next imm t'' himm =>
      cases h
      refine ⟨src, imm, ?_, ?_⟩
      · rw [vexInstrOf_len, vexLen]
      · rw [decodeModRM_length hmodrm, takeImm_length himm, Nat.add_assoc]

/-- The instruction decoded after the prefixes has these, the bytes taken from the string, and five bytes at least: a legacy
one has `66`, `0F`, two opcode bytes and ModRM, a VEX one `C4`, `P1`, `P2`, the opcode and ModRM. -/
theorem decodeBody_length (h : decodeBody m ps rex bs = .ok (i, t)) :
    5 ≤ i.len ∧ ps.length + rex.isSome.toNat + bs.length = i.len + t.length := by
  obtain ⟨t', ⟨rfl, hleg⟩ | ⟨rfl, hvex⟩⟩ := decodeBody_eq_ok.1 h
  · obtain ⟨-, -, hop, o, t'', rfl, htail⟩ := decodeLegacy_eq_ok.1 hleg
    obtain ⟨src, imm, hlen, hbytes⟩ := decodeLegacyTail_ok htail
    have hps : 0 < ps.length := List.length_pos_of_mem hop
    have hsrc := rmSize_pos src
    simp only [List.length_cons]
    omega
  · obtain ⟨p1, p2, o, t'', rfl, -, -, -, htail⟩ := decodeVex_eq_ok.1 hvex
    obtain ⟨src, imm, hlen, hbytes⟩ := decodeVexTail_ok htail
    have hsrc := rmSize_pos src
    simp only [List.length_cons]
    omega

/-- A decoded instruction has five bytes at least, and is as long as the bytes that the decoder took. -/
theorem decode_length (h : decode m bs = .ok (i, t)) : 5 ≤ i.len ∧ bs.length = i.len + t.length := by
  obtain ⟨-, -, -, hbody⟩ := decode_eq_ok.1 h
  obtain ⟨hmin, hlen⟩ := decodeBody_length hbody
  have hps := takePrefixes_length bs
  have hrex := takeRex_length m (takePrefixes bs).2
  omega

end Stages

/-- An instruction that was fetched has 5 to 15 bytes, all of them in the program text (R41, R62). -/
theorem fetchInstr_len {s : State} {i : Instr} (h : s.fetchInstr = .ok i) :
    5 ≤ i.len ∧ i.len ≤ 15 ∧ s.textOffset + i.len ≤ s.cfg.program.text.length := by
  obtain ⟨-, -, -, rest, hdecode⟩ := fetchInstr_ok h
  obtain ⟨hmin, hlen⟩ := decode_length hdecode
  obtain ⟨hwindow, htext⟩ : s.window.1.length ≤ 15 ∧ s.window.1.length ≤ _ := fetchBytes_length ..
  rw [List.length_drop] at htext
  omega

end Sys2Proof.Laws
end

section
/-!
PROOF. The statements of `10_state.md`: the state after reset, what an instruction and a step leave unchanged, the invariant,
and that every run ends.
-/

namespace Sys2Proof.Proofs

open Sys2Proof.Machine Sys2Proof.Laws

/-! ### The state after reset (R33, R34) -/

theorem reset_get_v (i : VNum) : State.reset.v.get i = { xmm := 0, upper := [0] } := by
  simp [State.reset, Vector.get_eq_getElem]

theorem reset_vbit (i : VNum) (k : Nat) : State.reset.vbit i k = false := by
  have hlane (n : Nat) : [(0 : Xmm)].getD n 0 = 0 := by cases n <;> rfl
  unfold State.vbit State.xmm State.upper
  rw [reset_get_v, hlane]
  split_ifs <;> exact BitVec.getLsbD_zero

/-- Settles O13. -/
theorem resetMeetsInvariant : Obligations.ResetMeetsInvariant := by
  refine ⟨wf_nil, fun i => ?upperLanes, ⟨by decide, ?ipInText⟩, ?mode32, rfl⟩
  case upperLanes => rw [State.upper, reset_get_v]; rfl
  case ipInText => decide
  case mode32 => intro hm; cases hm

/-- Settles O58: the stored values as they stand, and the mode refuses every instruction. -/
theorem resetValues : Obligations.ResetValues := by
  refine ⟨rfl, rfl, rfl, rfl, rfl, rfl, reset_vbit, fun i _ => ?generalRegister, rfl, read_nil, ?refused⟩
  case generalRegister => simp [State.reset, Vector.get_eq_getElem]
  case refused => exact exec_of_not_modelled rfl

/-! ### What an instruction changes -/

/-- Settles O15: both register writes set one entry of `V`, and the rest of the state is the advance of `ip`. -/
theorem execFrame : Obligations.ExecFrame := by
  intro i s t h
  rw [advancedIp_eq_nextIp]
  obtain ⟨r, rfl | rfl⟩ := exec_next h
  all_goals exact ⟨fun j hj => vector_get_set_of_ne _ _ hj, rfl, rfl, rfl, rfl, rfl, rfl, rfl, fun _ => rfl⟩

/-- Settles O26: a legacy write keeps the upper lanes, from which the upper bits come. -/
theorem legacyKeepsUpperBits : Obligations.LegacyKeepsUpperBits := by
  intro i s t hf h
  obtain ⟨r, rfl⟩ := exec_next_legacy hf h
  have hupper : ((s.writeLegacy (instrDest i) r).complete i.len).upper (instrDest i) = s.upper (instrDest i) := by simp
  exact ⟨hupper, fun k hk _ => by rw [vbit_of_le hk, vbit_of_le hk, hupper]⟩

/-- A VEX instruction completes, with the same low halves, from every state whose vector registers have the same low
halves. -/
theorem exec_vex_congr_v {i : Instr} {s t : State} {w : Vector VReg 16} (hf : instrForm i = .vex)
    (h : exec i s = .next t) (hw : ∀ j : VNum, (w.get j).xmm = s.xmm j) :
    ∃ t', exec i { s with v := w } = .next t' ∧ ∀ j, t'.xmm j = t.xmm j := by
  obtain ⟨e, round, bad, a, imms, result, -, hexec⟩ := exec_eq_vexInstr hf
  rw [hexec] at h
  obtain ⟨hcheck, operand, hsrc, rfl⟩ := vexInstr_next.1 h
  have hxmm (j : VNum) : State.xmm { s with v := w } j = s.xmm j := hw j
  refine ⟨_, (hexec _).trans (vexInstr_next.2 ⟨hcheck, operand, (src2_congr_v hw ..).trans hsrc, rfl⟩), fun j => ?_⟩
  simp only [complete_xmm, writeVex_xmm, hxmm]

/-- Settles O27. -/
theorem vexZeroesUpperBits : Obligations.VexZeroesUpperBits := by
  intro i s t hf h
  refine ⟨?zeroed, ?others, fun w hw => exec_vex_congr_v hf h hw⟩
  all_goals obtain ⟨r, rfl⟩ := exec_next_vex hf h
  case zeroed =>
    intro k hk _
    simp [vbit_of_le hk]
  case others =>
    intro j hj
    simp [hj.symm]

/-- Settles O29: the flags are read by no part of an instruction, and `ExecFrame` says that they stay. -/
theorem flagsTakeNoPart : Obligations.FlagsTakeNoPart := by
  intro i s flags csr
  refine ⟨exec_withFlags i s flags csr, fun t h => ?_⟩
  obtain ⟨-, -, -, -, hflags, hcsr, -⟩ := execFrame i s t h
  exact ⟨hflags, hcsr⟩

/-! ### What a step changes -/

/-- A step that goes on is the execution of the instruction fetched, with no fault recorded. -/
theorem step_next {s t : State} (h : step s = .next t) :
    s.faultRecord = none ∧ ∃ i, s.fetchInstr = .ok i ∧ exec i s = .next t := by
  unfold step at h
  split at h
  · cases h
  · next hfault =>
    split at h
    · next stop _ => cases stop <;> cases h
    · next i hfetch => exact ⟨hfault, i, hfetch, h⟩

/-- Settles O16: a step is the execution of an instruction, whose length is that of its bytes in the program. -/
theorem stepFrame : Obligations.StepFrame := by
  intro s t h
  obtain ⟨-, i, hfetch, hexec⟩ := step_next h
  obtain ⟨hreg, hip, hx, hcfg, hflags, hcsr, hfault, -, hmem⟩ := execFrame i s t hexec
  obtain ⟨hmin, hmax, -⟩ := fetchInstr_len hfetch
  exact ⟨hmem, hx, hcfg, hflags, hcsr, hfault, ⟨instrDest i, hreg⟩, i.len, hmin, hmax, hip⟩

/-! ### The invariant -/

/-- A completing instruction keeps the number of lanes of every register (R22, R23). -/
theorem exec_upper_length {i : Instr} {s t : State} (h : exec i s = .next t)
    (hs : ∀ j : VNum, (s.upper j).length = s.cfg.upperLanes) (j : VNum) : (t.upper j).length = t.cfg.upperLanes := by
  obtain ⟨r, rfl | rfl⟩ := exec_next h
  · simpa using hs j
  · simp only [complete_upper, writeVex_upper, complete_cfg, writeVex_cfg]
    split_ifs
    · exact List.length_replicate
    · exact hs j

theorem textOffset_toNat (s : State) :
    s.textOffset = (s.ip.toNat + (2 ^ 64 - s.cfg.program.start.toNat)) % 2 ^ 64 := by
  rw [State.textOffset, BitVec.toNat_sub, Nat.add_comm]

/-- In Mode32 a program that may run ends below 2^32 (R27). -/
theorem programEnd_of_placement {c : Config} (hm : c.mode = .mode32) (hp : placementOpen c = false)
    (hstart : c.program.start.toNat < 2 ^ 32) : programEnd c.program < 2 ^ 32 := by
  simp only [placementOpen, hm, openEdges, List.any_cons, List.any_nil, Bool.or_false, Bool.and_eq_false_iff,
    decide_eq_false_iff_not] at hp
  omega

/-- Where `ip` stands after an instruction that was fetched: further on in the text by its length. In Mode32 the program ends
below 2^32, elsewhere it has fewer than 2^64 bytes, so `ip` does not pass its end by wrapping. -/
theorem nextIp_textOffset {s : State} {i : Instr} (hinv : s.Inv) (hfetch : s.fetchInstr = .ok i) :
    (s.nextIp i.len - s.cfg.program.start).toNat = s.textOffset + i.len := by
  obtain ⟨-, -, ⟨htext, -⟩, h32, -⟩ := hinv
  obtain ⟨-, hmax, hend⟩ := fetchInstr_len hfetch
  obtain ⟨-, -, hplace, -⟩ := fetchInstr_ok hfetch
  have hoffset := textOffset_toNat s
  have hstart := s.cfg.program.start.isLt
  have hip := s.ip.isLt
  rw [BitVec.toNat_sub]
  by_cases hm : s.cfg.mode = .mode32
  · obtain ⟨hstart32, hip32⟩ := h32 hm
    have hprogram := programEnd_of_placement hm hplace hstart32
    unfold programEnd at hprogram
    rw [nextIp_toNat_mode32 hm]
    omega
  · rw [nextIp_toNat hm]
    omega

/-- A step that goes on moves by 5 bytes at least, within the text of the same program. -/
theorem step_textOffset {s t : State} (hinv : s.Inv) (h : step s = .next t) :
    t.cfg = s.cfg ∧ s.textOffset + 5 ≤ t.textOffset ∧ t.textOffset ≤ s.cfg.program.text.length := by
  obtain ⟨-, i, hfetch, hexec⟩ := step_next h
  obtain ⟨-, hip, -, hcfg, -⟩ := execFrame i s t hexec
  obtain ⟨hmin, -, hend⟩ := fetchInstr_len hfetch
  have hoffset : t.textOffset = s.textOffset + i.len := by
    rw [State.textOffset, hip, hcfg, advancedIp_eq_nextIp, nextIp_textOffset hinv hfetch]
  rw [hoffset]
  exact ⟨hcfg, by omega, hend⟩

/-- Settles O14: memory and configuration stay, both register writes keep `VLMAX` bits, and `ip` stays in the text. -/
theorem stepKeepsInvariant : Obligations.StepKeepsInvariant := by
  intro s t hinv h
  obtain ⟨hcfg, -, hend⟩ := step_textOffset hinv h
  obtain ⟨hfault, i, -, hexec⟩ := step_next h
  obtain ⟨-, hip, -, -, -, -, hrecord, -⟩ := execFrame i s t hexec
  obtain ⟨hmem, hlanes, ⟨htext, -⟩, h32, -⟩ := hinv
  refine ⟨?memory, exec_upper_length hexec hlanes, ⟨hcfg ▸ htext, hcfg ▸ hend⟩, ?mode32, hrecord.trans hfault⟩
  case memory =>
    obtain ⟨r, rfl | rfl⟩ := exec_next hexec <;> exact hmem
  case mode32 =>
    rw [hcfg]
    intro hm
    refine ⟨(h32 hm).1, ?_⟩
    rw [hip, advancedIp_eq_nextIp, nextIp_toNat_mode32 hm]
    exact Nat.mod_lt _ (by decide)

/-! ### Runs -/

/-- A run that goes on after `k` steps has passed 5 `k` bytes of the text. -/
theorem run_running_textOffset (k : Nat) {s t : State} (hinv : s.Inv) (h : run k s = .running t) :
    s.textOffset + 5 * k ≤ s.cfg.program.text.length := by
  induction k generalizing s with
  | zero =>
    obtain ⟨-, -, ⟨-, hip⟩, -, -⟩ := hinv
    exact hip
  | succ k ih =>
    unfold run at h
    split at h
    · next u hstep =>
      obtain ⟨hcfg, hoffset, -⟩ := step_textOffset hinv hstep
      have hrest := ih (stepKeepsInvariant s u hinv hstep) h
      rw [hcfg] at hrest
      omega
    · cases h
    · split_ifs at h

/-- Settles O17: a run still going has passed more bytes than the program has. -/
theorem runsEnd : Obligations.RunsEnd := by
  intro s k hinv hlen t h
  have := run_running_textOffset k hinv h
  omega

end Sys2Proof.Proofs
end

section
/-!
PROOF. The decoder reads back what the encoder writes (`30_encoding.md` R62 to R74), stage by stage.
-/

namespace Sys2Proof.Laws

/-! ### Fields of the bytes that the encoder writes -/

/-- The three fields of a ModRM byte (R66). -/
theorem modrmByte_fields (mod : BitVec 2) (reg rm : BitVec 3) :
    (modrmByte mod reg rm).extractLsb' 6 2 = mod ∧ (modrmByte mod reg rm).extractLsb' 3 3 = reg ∧
      (modrmByte mod reg rm).extractLsb' 0 3 = rm := by
  unfold modrmByte
  refine ⟨BitVec.extractLsb'_append_eq_left, ?reg, ?rm⟩
  case reg => exact (BitVec.extractLsb'_append_eq_of_add_le (by decide)).trans BitVec.extractLsb'_append_eq_left
  case rm => exact (BitVec.extractLsb'_append_eq_of_add_le (by decide)).trans BitVec.extractLsb'_append_eq_right

/-- The three fields of a SIB byte (R68), which lie as in ModRM. -/
theorem sibByte_fields (scale : BitVec 2) (index base : BitVec 3) :
    (sibByte scale index base).extractLsb' 6 2 = scale ∧ (sibByte scale index base).extractLsb' 3 3 = index ∧
      (sibByte scale index base).extractLsb' 0 3 = base :=
  modrmByte_fields scale index base

/-- The byte that the encoder writes for REX is a REX byte and holds the four bits (R64). -/
theorem rexByte_bits (w r x b : Bool) :
    isRex (rexByte w r x b) = true ∧ ((rexByte w r x b).extractLsb' 0 4).getLsbD 3 = w ∧
      ((rexByte w r x b).extractLsb' 0 4).getLsbD 2 = r ∧ ((rexByte w r x b).extractLsb' 0 4).getLsbD 1 = x ∧
      ((rexByte w r x b).extractLsb' 0 4).getLsbD 0 = b := by
  revert w r x b
  decide

/-- The byte `4x` before `C4` is a REX byte and holds its low four bits (R62, R76). -/
theorem rexBefore_bits (bits : BitVec 4) :
    isRex (0x4#4 ++ bits) = true ∧ (0x4#4 ++ bits).extractLsb' 0 4 = bits := by
  refine ⟨?_, BitVec.extractLsb'_append_eq_right⟩
  revert bits
  decide

theorem vexP1_bits (r x b : Bool) (mmmmm : BitVec 5) :
    (vexP1 r x b mmmmm).getLsbD 7 = !r ∧ (vexP1 r x b mmmmm).getLsbD 6 = !x ∧ (vexP1 r x b mmmmm).getLsbD 5 = !b ∧
      (vexP1 r x b mmmmm).extractLsb' 0 5 = mmmmm := by
  unfold vexP1
  refine ⟨?bit7, ?bit6, ?bit5, ?map⟩
  case map =>
    exact (BitVec.extractLsb'_append_eq_of_add_le (by decide)).trans
      ((BitVec.extractLsb'_append_eq_of_add_le (by decide)).trans BitVec.extractLsb'_append_eq_right)
  all_goals simp only [BitVec.getLsbD_append]; cases r <;> cases x <;> cases b <;> rfl

/-- Outside Mode64 `P1[7:6]` is `11`, since no register number above 7 is encoded (R74). -/
theorem vexP1_not_les (b : Bool) (mmmmm : BitVec 5) : (vexP1 false false b mmmmm).extractLsb' 6 2 = 3#2 := by
  revert b mmmmm
  decide

theorem vexP2_bits (w l : Bool) (vvvv : BitVec 4) :
    (vexP2 w vvvv l).getLsbD 7 = w ∧ (vexP2 w vvvv l).getLsbD 6 = vvvv.getLsbD 3 ∧ (vexP2 w vvvv l).getLsbD 2 = l ∧
      (vexP2 w vvvv l).extractLsb' 3 4 = vvvv ∧ (vexP2 w vvvv l).extractLsb' 0 2 = 1#2 := by
  revert w l vvvv
  decide

/-- A register number is its raw field and its extension bit (R66 to R68). -/
@[simp] theorem regNum_high_low3 (n : Fin 16) : regNum (high n) (low3 n) = n := by
  revert n
  decide

/-- The stored `vvvv` of the register number that a stored `vvvv` stands for (R71). -/
theorem vvvvOf_not (vvvv : BitVec 4) : vvvvOf ⟨(~~~vvvv).toNat, (~~~vvvv).isLt⟩ = vvvv := by
  revert vvvv
  decide

/-- The register number that the stored `vvvv` of a register number stands for (R71). -/
theorem not_vvvvOf (a : VNum) : (⟨(~~~vvvvOf a).toNat, (~~~vvvvOf a).isLt⟩ : VNum) = a := by
  revert a
  decide

theorem high_not (vvvv : BitVec 4) : high ⟨(~~~vvvv).toNat, (~~~vvvv).isLt⟩ = !vvvv.getLsbD 3 := by
  revert vvvv
  decide

/-! ### Displacement, SIB and ModRM -/

theorem takeLe32_le32Bytes (d : BitVec 32) (t : List Byte) : takeLe32 (le32Bytes d ++ t) = some (d, t) := by
  have hd : d.extractLsb' 24 8 ++ (d.extractLsb' 16 8 ++ (d.extractLsb' 8 8 ++ d.extractLsb' 0 8)) = d := by
    have h16 : d.extractLsb' 8 8 ++ d.extractLsb' 0 8 = d.extractLsb' 0 16 :=
      BitVec.extractLsb'_append_extractLsb'_eq_extractLsb' rfl
    have h24 : d.extractLsb' 16 8 ++ d.extractLsb' 0 16 = d.extractLsb' 0 24 :=
      BitVec.extractLsb'_append_extractLsb'_eq_extractLsb' rfl
    rw [h16, h24]
    exact (BitVec.extractLsb'_append_extractLsb'_eq_extractLsb' rfl).trans BitVec.extractLsb'_eq_self
  exact congrArg (fun x => some (x, t)) hd

theorem takeDisp_bytes (d : Disp) (t : List Byte) : takeDisp d.mod (d.bytes ++ t) = some (d, t) := by
  cases d with
  | none => rfl
  | d8 d => rfl
  | d32 d =>
    have hd := takeLe32_le32Bytes d t
    simp [takeDisp, Disp.mod, Disp.bytes, hd]

/-- `mod = 11` announces a register, so no displacement is announced by it (R66, R67). -/
theorem disp_mod_ne_3 (d : Disp) : d.mod ≠ 3#2 := by
  cases d <;> simp [Disp.mod]

/-- A base with the raw bits `101` comes with a displacement, which `mod` tells from the forms without a base (R67, R68). -/
theorem baseDispOk_iff {b : GNum} {d : Disp} : baseDispOk b d = true ↔ ¬ (low3 b = 5#3 ∧ d.mod = 0) := by
  cases d <;> simp [baseDispOk, Disp.mod]

/-- Only `rsp` has the field and the bit that stand for no index (R68). -/
theorem decoded_index_eq {i : Option GNum} (h : indexOk i = true) :
    (if indexField i = 4#3 ∧ indexHigh i = false then none else some (regNum (indexHigh i) (indexField i))) = i := by
  cases i with
  | none => rfl
  | some j =>
    have hj : low3 j = 4#3 → high j = false → j.val = 4 := by
      revert j
      decide
    have hne : ¬ (low3 j = 4#3 ∧ high j = false) := fun ⟨hlow, hhigh⟩ => by simp [indexOk, hj hlow hhigh] at h
    simp only [indexField, indexHigh, if_neg hne, regNum_high_low3]

section Operands

variable {m : Mode} {x b : Bool} {t : List Byte}

theorem decodeSib_base (base : GNum) {i : Option GNum} {d : Disp} (scale : BitVec 2) (hi : indexOk i = true)
    (hd : baseDispOk base d = true) :
    decodeSib (indexHigh i) (high base) d.mod (sibByte scale (indexField i) (low3 base) :: (d.bytes ++ t)) =
      .ok (.sib base i scale d, t) := by
  obtain ⟨hscale, hindex, hbase⟩ := sibByte_fields scale (indexField i) (low3 base)
  simp only [decodeSib, hscale, hindex, hbase, decoded_index_eq hi, if_neg (baseDispOk_iff.1 hd), takeDisp_bytes,
    regNum_high_low3]

theorem decodeSib_noBase {i : Option GNum} (scale : BitVec 2) (d : BitVec 32) (hi : indexOk i = true) :
    decodeSib (indexHigh i) b 0 (sibByte scale (indexField i) 5 :: (le32Bytes d ++ t)) =
      .ok (.sibNoBase i scale d, t) := by
  obtain ⟨hscale, hindex, hbase⟩ := sibByte_fields scale (indexField i) 5
  simp only [decodeSib, hscale, hindex, hbase, decoded_index_eq hi, takeLe32_le32Bytes]
  rfl

theorem decodeMem_base {base : GNum} {d : Disp} (hb : low3 base ≠ 4) (hd : baseDispOk base d = true) :
    decodeMem m x (high base) d.mod (low3 base) (d.bytes ++ t) = .ok (.base base d, t) := by
  have hnot5 : ¬ (low3 base = 5 ∧ d.mod = 0) := baseDispOk_iff.1 hd
  simp only [decodeMem, if_neg hb, if_neg hnot5, takeDisp_bytes, regNum_high_low3]

/-- `mod = 00, rm = 101` is `rip`-relative in Mode64 and absolute in Mode32 (R67). -/
theorem decodeMem_disp32 (d : BitVec 32) :
    decodeMem m x b 0 5 (le32Bytes d ++ t) = .ok (if m = .mode64 then .ripRel d else .abs d, t) := by
  simp [decodeMem, takeLe32_le32Bytes]

/-- A memory operand is what the bytes after ModRM select, under the fields of ModRM. -/
theorem decodeModRM_mem (d : VNum) {mod : BitVec 2} {rm : BitVec 3} {bs : List Byte} {a : Addr} (hmod : mod ≠ 3#2)
    (h : decodeMem m x b mod rm bs = .ok (a, t)) :
    decodeModRM m (high d) x b (modrmByte mod (low3 d) rm :: bs) = .ok (d, .mem a, t) := by
  obtain ⟨hfmod, hfreg, hfrm⟩ := modrmByte_fields mod (low3 d) rm
  simp only [decodeModRM, hfmod, hfreg, hfrm, if_neg hmod, h, regNum_high_low3]

/-- The operand bytes of a well-formed operand are read back, given the extension bits that the operand needs (R66 to
R68). -/
theorem decodeModRM_modrmBytes (d : VNum) {src : RM} (h : src.wf m = true) :
    decodeModRM m (high d) src.extX src.extB (modrmBytes d src ++ t) = .ok (d, src, t) := by
  unfold RM.wf at h
  rw [Bool.and_eq_true] at h
  obtain ⟨ha, -⟩ := h
  cases src with
  | reg j =>
    obtain ⟨hfmod, hfreg, hfrm⟩ := modrmByte_fields 3 (low3 d) (low3 j)
    simp only [modrmBytes, RM.extB, List.cons_append, List.nil_append, decodeModRM, hfmod, hfreg, hfrm,
      regNum_high_low3]
    rfl
  | mem a =>
    cases a with
    | ripRel disp =>
      have hm : m = .mode64 := by simpa [Addr.wf] using ha
      exact decodeModRM_mem d (by decide) ((decodeMem_disp32 disp).trans (by rw [if_pos hm]))
    | abs disp =>
      have hm : m ≠ .mode64 := by rintro rfl; cases ha
      exact decodeModRM_mem d (by decide) ((decodeMem_disp32 disp).trans (by rw [if_neg hm]))
    | base base disp =>
      obtain ⟨hb, hd⟩ : low3 base ≠ 4 ∧ baseDispOk base disp = true := by simpa [Addr.wf] using ha
      exact decodeModRM_mem d (disp_mod_ne_3 disp) (decodeMem_base hb hd)
    | sib base i scale disp =>
      obtain ⟨hi, hd⟩ : indexOk i = true ∧ baseDispOk base disp = true := by simpa [Addr.wf] using ha
      exact decodeModRM_mem d (disp_mod_ne_3 disp) (decodeSib_base base scale hi hd)
    | sibNoBase i scale disp =>
      exact decodeModRM_mem d (by decide) (decodeSib_noBase scale disp ha)

/-- The immediate byte is read back; a row without one has 0 in its place (R69). -/
theorem takeImm_immBytes {o : AesOp} {imm : Byte} (h : o ≠ .keygen → imm = 0) :
    takeImm o (immBytes o imm ++ t) = .ok (imm, t) := by
  cases o with
  | keygen => rfl
  | _ =>
    rw [h (by decide)]
    rfl

end Operands

/-! ### What well-formedness says of an encoding -/

theorem legEnc_wf_iff {m : Mode} {e : LegEnc} {d : VNum} {src : RM} : e.wf m d src = true ↔
    prefixesOnce e.prefixes = true ∧ addrSizeOk m e.prefixes = true ∧ .opSize ∈ e.prefixes ∧ .repne ∉ e.prefixes ∧
      .rep ∉ e.prefixes ∧ (e.rex = none → high d = false ∧ src.extX = false ∧ src.extB = false) ∧
      (e.rex ≠ none → m = .mode64) := by
  obtain ⟨ps, rex⟩ := e
  cases rex <;> simp [LegEnc.wf, and_assoc]

theorem vexEnc_wf_iff {m : Mode} {e : VexEnc} {d : VNum} : e.wf m d = true ↔
    prefixesOnce e.prefixes = true ∧ addrSizeOk m e.prefixes = true ∧ (e.rexBefore ≠ none → m = .mode64) ∧
      (m ≠ .mode64 → high d = false) := by
  obtain ⟨ps, rex, w, l⟩ := e
  cases rex <;> simp [VexEnc.wf, and_assoc, imp_iff_not_or]

/-- Outside Mode64 no operand needs an extension bit (R66, R74). -/
theorem rm_wf_ext {m : Mode} {src : RM} (h : src.wf m = true) (hm : m ≠ .mode64) :
    src.extX = false ∧ src.extB = false := by
  unfold RM.wf at h
  rw [Bool.and_eq_true] at h
  simpa [hm] using h.2

theorem mode_of_modelled {m : Mode} (h : m.modelled = true) : m = .mode64 ∨ m = .mode32 := by
  cases m with
  | mode64 => exact .inl rfl
  | mode32 => exact .inr rfl
  | _ => cases h

/-! ### The instructions as rows of R60 -/

/-- Every instruction is the legacy or the VEX row of an operation, with 0 for an immediate that the row does not have. -/
theorem exists_row (i : Instr) :
    (∃ o e d src imm, (o ≠ .keygen → imm = 0) ∧ i = legacyInstrOf o e d src imm) ∨
    (∃ o e vvvv d src imm, (o ≠ .keygen → imm = 0) ∧ i = vexInstrOf o e vvvv d src imm) := by
  cases i with
  | aesdec e d src => exact .inl ⟨.dec, e, d, src, 0, fun _ => rfl, rfl⟩
  | aesdeclast e d src => exact .inl ⟨.declast, e, d, src, 0, fun _ => rfl, rfl⟩
  | aesenc e d src => exact .inl ⟨.enc, e, d, src, 0, fun _ => rfl, rfl⟩
  | aesenclast e d src => exact .inl ⟨.enclast, e, d, src, 0, fun _ => rfl, rfl⟩
  | aesimc e d src => exact .inl ⟨.imc, e, d, src, 0, fun _ => rfl, rfl⟩
  | aeskeygenassist e d src imm => exact .inl ⟨.keygen, e, d, src, imm, fun h => absurd rfl h, rfl⟩
  | vaesdec e d a src =>
    exact .inr ⟨.dec, e, vvvvOf a, d, src, 0, fun _ => rfl, by rw [vexInstrOf, not_vvvvOf]⟩
  | vaesdeclast e d a src =>
    exact .inr ⟨.declast, e, vvvvOf a, d, src, 0, fun _ => rfl, by rw [vexInstrOf, not_vvvvOf]⟩
  | vaesenc e d a src =>
    exact .inr ⟨.enc, e, vvvvOf a, d, src, 0, fun _ => rfl, by rw [vexInstrOf, not_vvvvOf]⟩
  | vaesenclast e d a src =>
    exact .inr ⟨.enclast, e, vvvvOf a, d, src, 0, fun _ => rfl, by rw [vexInstrOf, not_vvvvOf]⟩
  | vaesimc e vvvv d src => exact .inr ⟨.imc, e, vvvv, d, src, 0, fun _ => rfl, rfl⟩
  | vaeskeygenassist e vvvv d src imm => exact .inr ⟨.keygen, e, vvvv, d, src, imm, fun h => absurd rfl h, rfl⟩

section Rows

variable {m : Mode} {o : AesOp} {d : VNum} {src : RM} {imm : Byte}

theorem encode_legacyInstrOf (e : LegEnc) (himm : o ≠ .keygen → imm = 0) :
    encode (legacyInstrOf o e d src imm) = encodeLegacy o e d src imm := by
  cases o with
  | keygen => rfl
  | _ =>
    rw [himm (by decide)]
    rfl

theorem encode_vexInstrOf (e : VexEnc) (vvvv : BitVec 4) (himm : o ≠ .keygen → imm = 0) :
    encode (vexInstrOf o e vvvv d src imm) = encodeVex o e vvvv d src imm := by
  cases o with
  | keygen => rfl
  | _ =>
    rw [himm (by decide)]
    simp only [vexInstrOf, encode, vvvvOf_not]

theorem wf_legacyInstrOf {e : LegEnc} : (legacyInstrOf o e d src imm).wf m = true ↔
    m.modelled = true ∧ e.wf m d src = true ∧ src.wf m = true := by
  cases o <;> simp [legacyInstrOf, Instr.wf]

/-- Where `vvvv` is an operand, Mode32 admits the numbers below 8 only, which are stored with bit 3 set (R71, R74). -/
theorem wf_vexInstrOf {e : VexEnc} {vvvv : BitVec 4} : (vexInstrOf o e vvvv d src imm).wf m = true ↔
    m.modelled = true ∧ e.wf m d = true ∧ src.wf m = true ∧
      (o.isRound = true → m ≠ .mode64 → vvvv.getLsbD 3 = true) := by
  cases o <;> simp only [vexInstrOf, Instr.wf, high_not] <;> simp [AesOp.isRound, and_assoc, imp_iff_not_or]

end Rows

/-! ### Decode of encode -/

section RoundTrip

variable {m : Mode} {ps : List Prefix} {o : AesOp} {d : VNum} {src : RM} {imm : Byte} {t : List Byte}

/-- Prefixes that R63 admits, then an opcode: the decoder answers what the opcode's stage answers. -/
theorem decode_of_decodeBody {b : Byte} {r : Instr × List Byte} (hm : m.modelled = true) (honce : prefixesOnce ps = true)
    (haddr : addrSizeOk m ps = true) (hp : prefixOf b = none) (hb : isRex b = false)
    (h : decodeBody m ps none (b :: t) = .ok r) : decode m (ps.map prefixByte ++ b :: t) = .ok r := by
  rw [decode_eq_ok, takePrefixes_append_cons ps t hp, takeRex_of_not_isRex m t hb]
  exact ⟨hm, honce, haddr, h⟩

/-- The same with a REX byte between the prefixes and the opcode, in Mode64 (R64). -/
theorem decode_of_decodeBody_rex {b : Byte} {r : Instr × List Byte} (honce : prefixesOnce ps = true)
    (haddr : addrSizeOk .mode64 ps = true) (hb : isRex b = true)
    (h : decodeBody .mode64 ps (some (b.extractLsb' 0 4)) t = .ok r) :
    decode .mode64 (ps.map prefixByte ++ b :: t) = .ok r := by
  rw [decode_eq_ok, takePrefixes_append_cons ps t (prefixOf_of_isRex hb), takeRex_of_isRex t hb]
  exact ⟨rfl, honce, haddr, h⟩

/-- The operands of a legacy encoding are read back where the REX byte, or its absence, gives the bits they need. -/
theorem decodeLegacyTail_encode {rex : Option (BitVec 4)} (hsrc : src.wf m = true) (himm : o ≠ .keygen → imm = 0)
    (hr : (rex.getD 0).getLsbD 2 = high d) (hx : (rex.getD 0).getLsbD 1 = src.extX)
    (hb : (rex.getD 0).getLsbD 0 = src.extB) :
    decodeLegacyTail m ps rex o (modrmBytes d src ++ (immBytes o imm ++ t)) =
      .ok (legacyInstrOf o ⟨ps, rex.map (·.getLsbD 3)⟩ d src imm, t) := by
  simp only [decodeLegacyTail, hr, hx, hb, decodeModRM_modrmBytes d hsrc, takeImm_immBytes himm]

/-- The operands of a VEX encoding are read back (R71, R74). -/
theorem decodeVexTail_encode {e : VexEnc} {rex : Option (BitVec 4)} {vvvv : BitVec 4} (hsrc : src.wf m = true)
    (himm : o ≠ .keygen → imm = 0) (hvvvv : o.isRound = true → m ≠ .mode64 → vvvv.getLsbD 3 = true) :
    decodeVexTail m ps rex o (vexP1 (high d) src.extX src.extB o.vexMap) (vexP2 e.w vvvv e.l)
        (modrmBytes d src ++ (immBytes o imm ++ t)) =
      .ok (vexInstrOf o ⟨ps, rex, e.w, e.l⟩ vvvv d src imm, t) := by
  obtain ⟨hp1r, hp1x, hp1b, -⟩ := vexP1_bits (high d) src.extX src.extB o.vexMap
  obtain ⟨hp2w, hp2v, hp2l, hp2vvvv, -⟩ := vexP2_bits e.w e.l vvvv
  have hvvvv32 : ¬ (m = .mode32 ∧ o.isRound = true ∧ (vexP2 e.w vvvv e.l).getLsbD 6 = false) := by
    rintro ⟨rfl, hround, hbit⟩
    rw [hp2v, hvvvv hround (by decide)] at hbit
    cases hbit
  have hextB : (decide (m = .mode64) && src.extB) = src.extB := by
    by_cases hm64 : m = .mode64
    · simp [hm64]
    · simp [(rm_wf_ext hsrc hm64).2]
  simp only [decodeVexTail, if_neg hvvvv32, hp1r, hp1x, hp1b, hp2w, hp2l, hp2vvvv, hextB, Bool.not_not,
    decodeModRM_modrmBytes d hsrc, takeImm_immBytes himm]

theorem decode_encodeLegacy {e : LegEnc} (hm : m.modelled = true) (he : e.wf m d src = true) (hsrc : src.wf m = true)
    (himm : o ≠ .keygen → imm = 0) :
    decode m (encodeLegacy o e d src imm ++ t) = .ok (legacyInstrOf o e d src imm, t) := by
  obtain ⟨honce, haddr, hop, hrepne, hrep, hnorex, hrex⟩ := legEnc_wf_iff.1 he
  have hbody (rex : Option (BitVec 4)) (hr : (rex.getD 0).getLsbD 2 = high d) (hx : (rex.getD 0).getLsbD 1 = src.extX)
      (hb : (rex.getD 0).getLsbD 0 = src.extB) :
      decodeBody m e.prefixes rex (0x0F :: o.escape :: o.opcode :: (modrmBytes d src ++ (immBytes o imm ++ t))) =
        .ok (legacyInstrOf o ⟨e.prefixes, rex.map (·.getLsbD 3)⟩ d src imm, t) :=
    decodeBody_eq_ok.2 ⟨_, .inl ⟨rfl, decodeLegacy_eq_ok.2
      ⟨hrepne, hrep, hop, o, _, rfl, decodeLegacyTail_encode hsrc himm hr hx hb⟩⟩⟩
  obtain ⟨ps, rex⟩ := e
  cases rex with
  | none =>
    obtain ⟨hd, hx, hb⟩ := hnorex rfl
    simpa [encodeLegacy] using
      decode_of_decodeBody hm honce haddr (by decide) (by decide) (hbody none hd.symm hx.symm hb.symm)
  | some w =>
    obtain rfl := hrex (by simp)
    obtain ⟨hisRex, hw, hr, hx, hb⟩ := rexByte_bits w (high d) src.extX src.extB
    have h := decode_of_decodeBody_rex honce haddr hisRex (hbody (some _) hr hx hb)
    rw [Option.map_some, hw] at h
    simpa [encodeLegacy] using h

theorem decode_encodeVex {e : VexEnc} {vvvv : BitVec 4} (hm : m.modelled = true) (he : e.wf m d = true)
    (hsrc : src.wf m = true) (hvvvv : o.isRound = true → m ≠ .mode64 → vvvv.getLsbD 3 = true)
    (himm : o ≠ .keygen → imm = 0) :
    decode m (encodeVex o e vvvv d src imm ++ t) = .ok (vexInstrOf o e vvvv d src imm, t) := by
  obtain ⟨honce, haddr, hrex, hhigh⟩ := vexEnc_wf_iff.1 he
  obtain ⟨-, -, -, hmap⟩ := vexP1_bits (high d) src.extX src.extB o.vexMap
  obtain ⟨-, -, -, -, hpp⟩ := vexP2_bits e.w e.l vvvv
  have hles : m = .mode32 → (vexP1 (high d) src.extX src.extB o.vexMap).extractLsb' 6 2 = 3#2 := by
    rintro rfl
    rw [hhigh (by decide), (rm_wf_ext hsrc (by decide)).1]
    exact vexP1_not_les ..
  have hbody (rex : Option (BitVec 4)) :
      decodeBody m e.prefixes rex (0xC4 :: vexP1 (high d) src.extX src.extB o.vexMap :: vexP2 e.w vvvv e.l ::
          o.opcode :: (modrmBytes d src ++ (immBytes o imm ++ t))) =
        .ok (vexInstrOf o ⟨e.prefixes, rex, e.w, e.l⟩ vvvv d src imm, t) :=
    decodeBody_eq_ok.2 ⟨_, .inr ⟨rfl, decodeVex_eq_ok.2
      ⟨_, _, o, _, rfl, hles, hpp, hmap, decodeVexTail_encode hsrc himm hvvvv⟩⟩⟩
  obtain ⟨ps, rex, w, l⟩ := e
  cases rex with
  | none => simpa [encodeVex] using decode_of_decodeBody hm honce haddr (by decide) (by decide) (hbody none)
  | some bits =>
    obtain rfl := hrex (by simp)
    obtain ⟨hisRex, hbits⟩ := rexBefore_bits bits
    have h := decode_of_decodeBody_rex honce haddr hisRex (hbody (some _))
    rw [hbits] at h
    simpa [encodeVex] using h

/-- The decoder reads a well-formed instruction back from its encoding, whatever follows (R62 to R74). -/
theorem decode_encode {i : Instr} (h : i.wf m = true) (rest : List Byte) :
    decode m (encode i ++ rest) = .ok (i, rest) := by
  obtain ⟨o, e, d, src, imm, himm, rfl⟩ | ⟨o, e, vvvv, d, src, imm, himm, rfl⟩ := exists_row i
  · obtain ⟨hm, he, hsrc⟩ := wf_legacyInstrOf.1 h
    rw [encode_legacyInstrOf e himm]
    exact decode_encodeLegacy hm he hsrc himm
  · obtain ⟨hm, he, hsrc, hvvvv⟩ := wf_vexInstrOf.1 h
    rw [encode_vexInstrOf e vvvv himm]
    exact decode_encodeVex hm he hsrc hvvvv himm

end RoundTrip

end Sys2Proof.Laws
end

section
/-!
PROOF. Fetching an encoding and running it (`20_memory.md` R41, R43): what the fetch reads of a text whose bytes have
locations, and how long an encoding can be (`30_encoding.md` R62).
-/

namespace Sys2Proof.Proofs

open Sys2Proof.Machine Sys2Proof.Laws

/-! ### Length bounds (R62) -/

theorem length_le_of_prefixesOnce {ps : List Prefix} (kinds : List Nat) (honce : prefixesOnce ps = true)
    (h : ∀ p ∈ ps, p.kind ∈ kinds) : ps.length ≤ kinds.length := by
  rw [← List.length_map (f := Prefix.kind)]
  refine (prefixesOnce_iff.1 honce).length_le_of_subset fun k hk => ?_
  obtain ⟨p, hp, rfl⟩ := List.mem_map.1 hk
  exact h p hp

/-- ModRM, SIB and disp32 at most. -/
theorem rmSize_le (src : RM) : src.size ≤ 6 := by
  have hdisp (d : Disp) : d.size ≤ 4 := by cases d <;> simp [Disp.size]
  rcases src with j | ⟨d | d | ⟨b, d⟩ | ⟨b, i, s, d⟩ | ⟨i, s, d⟩⟩ <;> simp only [RM.size]
  case mem.base => have := hdisp d; omega
  case mem.sib => have := hdisp d; omega
  all_goals decide

theorem immBytes_length_le (o : AesOp) (imm : Byte) : (immBytes o imm).length ≤ 1 := by
  cases o <;> simp [immBytes]

/-- A legacy encoding has four prefixes at most, since `F2` and `F3` belong to other rows (R63). -/
theorem legacyLen_le {m : Mode} {e : LegEnc} {d : VNum} {src : RM} {imms : Nat} (he : e.wf m d src = true)
    (himms : imms ≤ 1) : legacyLen e src imms ≤ 15 := by
  obtain ⟨honce, -, -, hrepne, hrep, -⟩ := legEnc_wf_iff.1 he
  have hps : e.prefixes.length ≤ 4 := by
    refine length_le_of_prefixesOnce [0, 1, 2, 3] honce fun p hp => ?_
    cases p with
    | repne => exact absurd hp hrepne
    | rep => exact absurd hp hrep
    | _ => simp [Prefix.kind]
  have hrex := Bool.toNat_le e.rex.isSome
  have hsrc := rmSize_le src
  unfold legacyLen
  omega

/-- A VEX encoding without forbidden prefixes has a segment override and `67` at most (R63, R76). -/
theorem vexLen_le {m : Mode} {e : VexEnc} {d : VNum} {src : RM} {imms : Nat} (he : e.wf m d = true)
    (hforbidden : forbiddenPrefix e = false) (himms : imms ≤ 1) : vexLen e src imms ≤ 13 := by
  obtain ⟨honce, -⟩ := vexEnc_wf_iff.1 he
  simp only [forbiddenPrefix, Bool.or_eq_false_iff, List.contains_eq_mem, decide_eq_false_iff_not] at hforbidden
  obtain ⟨⟨⟨⟨hop, hrepne⟩, hrep⟩, hlock⟩, hrex⟩ := hforbidden
  have hps : e.prefixes.length ≤ 2 := by
    refine length_le_of_prefixesOnce [0, 1] honce fun p hp => ?_
    cases p with
    | seg s => simp [Prefix.kind]
    | addrSize => simp [Prefix.kind]
    | opSize => exact absurd hp hop
    | lock => exact absurd hp hlock
    | repne => exact absurd hp hrepne
    | rep => exact absurd hp hrep
  have hsrc := rmSize_le src
  rw [vexLen, hrex, Bool.toNat_false]
  omega

theorem instrForm_legacyInstrOf (o : AesOp) (e : LegEnc) (d : VNum) (src : RM) (imm : Byte) :
    instrForm (legacyInstrOf o e d src imm) = .legacy := by
  cases o <;> rfl

theorem instrForm_vexInstrOf (o : AesOp) (e : VexEnc) (vvvv : BitVec 4) (d : VNum) (src : RM) (imm : Byte) :
    instrForm (vexInstrOf o e vvvv d src imm) = .vex := by
  cases o <;> rfl

theorem badPrefix_vexInstrOf (o : AesOp) (e : VexEnc) (vvvv : BitVec 4) (d : VNum) (src : RM) (imm : Byte) :
    badPrefix (vexInstrOf o e vvvv d src imm) = forbiddenPrefix e := by
  cases o <;> rfl

/-- Settles O4: the decoder takes the whole encoding as an instruction of its length, five bytes at least; the upper bounds
count the prefixes that each format admits. -/
theorem encodedLengthBounds : Obligations.EncodedLengthBounds := by
  intro m i h
  obtain ⟨hmin, hlen⟩ := decode_length (decode_encode h [])
  refine ⟨by simpa using hlen, hmin, ?legacy, ?vex⟩
  all_goals obtain ⟨o, e, d, src, imm, -, rfl⟩ | ⟨o, e, vvvv, d, src, imm, -, rfl⟩ := exists_row i
  case legacy.inl =>
    intro _
    obtain ⟨-, he, -⟩ := wf_legacyInstrOf.1 h
    rw [legacyInstrOf_len]
    exact legacyLen_le he (immBytes_length_le o imm)
  case legacy.inr =>
    rw [instrForm_vexInstrOf]
    intro hf
    cases hf
  case vex.inl =>
    rw [instrForm_legacyInstrOf]
    intro hf
    cases hf
  case vex.inr =>
    intro _ hbad
    obtain ⟨-, he, -⟩ := wf_vexInstrOf.1 h
    rw [badPrefix_vexInstrOf] at hbad
    rw [vexInstrOf_len]
    exact vexLen_le he hbad (immBytes_length_le o imm)

/-! ### Fetch (R41) -/

/-- Bytes of the text whose addresses have locations are fetched one after another, and the fetch goes on behind them. -/
theorem fetchBytes_append (c : Config) (ip : Word) {front : List Byte} {a : Word} (n : Nat) (bs : List Byte)
    (hloc : ∀ k < front.length, ∃ p, translate c .fetch (a + BitVec.ofNat 64 k) = .location p) :
    fetchBytes c ip (front.length + n) a (front ++ bs) =
      (front ++ (fetchBytes c ip n (a + BitVec.ofNat 64 front.length) bs).1,
        (fetchBytes c ip n (a + BitVec.ofNat 64 front.length) bs).2) := by
  induction front generalizing a with
  | nil => simp
  | cons b front ih =>
    have hnext (k : Nat) : a + 1 + BitVec.ofNat 64 k = a + BitVec.ofNat 64 (k + 1) := by
      rw [Nat.add_comm k, BitVec.ofNat_add, ← BitVec.add_assoc]
      rfl
    obtain ⟨p, hp⟩ : ∃ p, translate c .fetch a = .location p := by simpa using hloc 0 (by simp)
    have hrest : ∀ k < front.length, ∃ p, translate c .fetch (a + 1 + BitVec.ofNat 64 k) = .location p := by
      intro k hk
      rw [hnext]
      exact hloc (k + 1) (by simpa using hk)
    simp only [List.length_cons, Nat.add_right_comm _ 1 n, List.cons_append, fetchBytes, hp, ih hrest, hnext]

/-- Where the text at `ip` begins with bytes that can be fetched, 15 at most, the window begins with them. -/
theorem window_of_text {s : State} {before front after : List Byte}
    (htext : s.cfg.program.text = before ++ (front ++ after)) (hoffset : s.textOffset = before.length)
    (hmax : front.length ≤ 15)
    (hloc : ∀ k < front.length, ∃ p, translate s.cfg .fetch (s.ip + BitVec.ofNat 64 k) = .location p) :
    ∃ rest, s.window.1 = front ++ rest := by
  have hfetch := fetchBytes_append s.cfg s.ip (15 - front.length) after hloc
  rw [Nat.add_sub_cancel' hmax] at hfetch
  exact ⟨_, by rw [State.window, hoffset, htext, List.drop_left, hfetch]⟩

/-- In a mode of scope, with `ip` inside the program and the program away from the edges of R27, the fetch decodes the
window. -/
theorem fetchInstr_of_decode {s : State} {i : Instr} {rest : List Byte} (hm : s.cfg.mode.modelled = true)
    (hip : s.textOffset < s.cfg.program.text.length) (hplace : placementOpen s.cfg = false)
    (h : decode s.cfg.mode s.window.1 = .ok (i, rest)) : s.fetchInstr = .ok i := by
  have hwindow : s.decodeWindow = .ok i := by rw [State.decodeWindow, h]
  simp [State.fetchInstr, hm, hip.ne, hip.not_gt, hplace, hwindow]

/-- Settles O9: no test of the fetch stands in the way of the instruction decoded. -/
theorem stepRunsDecodedInstruction : Obligations.StepRunsDecodedInstruction := by
  intro s i rest hfault hm hip hplace h
  simp only [step, hfault, fetchInstr_of_decode hm hip hplace h]

/-- Settles O10: the window begins with the encoding, from which the decoder reads the instruction back. -/
theorem stepRunsEncodedInstruction : Obligations.StepRunsEncodedInstruction := by
  intro s i before after hfault hwf hmax htext hoffset hplace hloc
  obtain ⟨hlen, hmin, -⟩ := encodedLengthBounds s.cfg.mode i hwf
  rw [← hlen] at hloc hmax
  obtain ⟨rest, hwindow⟩ := window_of_text htext hoffset hmax hloc
  have hdecode : decode s.cfg.mode s.window.1 = .ok (i, rest) := by rw [hwindow, decode_encode hwf]
  have hm : s.cfg.mode.modelled = true := (decode_eq_ok.1 hdecode).1
  have hip : s.textOffset < s.cfg.program.text.length := by
    have hoffset' : s.textOffset = before.length := hoffset
    rw [hoffset', htext, List.length_append, List.length_append]
    omega
  exact stepRunsDecodedInstruction s i rest hfault hm hip hplace hdecode

end Sys2Proof.Proofs
end

section
/-!
PROOF. The order that all twelve rules share, `Check`, then the operand read, then completion (`60_exceptions.md` R183), and
what each check of the operand read answers (`20_memory.md` R45 to R48).
-/

namespace Sys2Proof.Laws

open Sys2Proof.Machine

/-! ### The parts of an instruction's meaning -/

/-- `Check` as each instruction calls it (R183); the reserved `vvvv` counts for the two VEX key instructions (R78). -/
def instrCheck (s : State) : Instr → Option Stop
  | .aesdec e _ _ => s.checkLegacy e
  | .vaesdec e _ _ _ => s.checkVex e true false
  | .aesdeclast e _ _ => s.checkLegacy e
  | .vaesdeclast e _ _ _ => s.checkVex e true false
  | .aesenc e _ _ => s.checkLegacy e
  | .vaesenc e _ _ _ => s.checkVex e true false
  | .aesenclast e _ _ => s.checkLegacy e
  | .vaesenclast e _ _ _ => s.checkVex e true false
  | .aesimc e _ _ => s.checkLegacy e
  | .vaesimc e vvvv _ _ => s.checkVex e false (vvvv != 0b1111#4)
  | .aeskeygenassist e _ _ _ => s.checkLegacy e
  | .vaeskeygenassist e vvvv _ _ _ => s.checkVex e false (vvvv != 0b1111#4)

/-- The low 128 bits that an instruction makes of its operand (R120 to R171). -/
def instrResult (s : State) (operand : Xmm) : Instr → Xmm
  | .aesdec _ d _ => aesDec (s.xmm d) operand
  | .vaesdec _ _ a _ => aesDec (s.xmm a) operand
  | .aesdeclast _ d _ => aesDecLast (s.xmm d) operand
  | .vaesdeclast _ _ a _ => aesDecLast (s.xmm a) operand
  | .aesenc _ d _ => aesEnc (s.xmm d) operand
  | .vaesenc _ _ a _ => aesEnc (s.xmm a) operand
  | .aesenclast _ d _ => aesEncLast (s.xmm d) operand
  | .vaesenclast _ _ a _ => aesEncLast (s.xmm a) operand
  | .aesimc _ _ _ => aesImc operand
  | .vaesimc _ _ _ _ => aesImc operand
  | .aeskeygenassist _ _ _ imm => aesKeygen operand imm
  | .vaeskeygenassist _ _ _ _ imm => aesKeygen operand imm

/-- The state after an instruction that read this operand: the write of its format, then the advance of `ip` (R22, R23,
R27). -/
def instrNext (s : State) (operand : Xmm) (i : Instr) : State :=
  match instrForm i with
  | .legacy => (s.writeLegacy (instrDest i) (instrResult s operand i)).complete i.len
  | .vex => (s.writeVex (instrDest i) (instrResult s operand i)).complete i.len

/-- The operand from `ModRM:r/m` as an instruction reads it. -/
def instrOperand (s : State) (i : Instr) : Except Stop Xmm :=
  s.src2 (instrForm i) (instrPrefixes i) i.len (instrSrc i)

/-- The order of the three parts: the first that stops the instruction decides its outcome. -/
def inOrder (check : Option Stop) (operand : Except Stop Xmm) (next : Xmm → State) : Host.Outcome State Fault Refusal :=
  match check with
  | some stop => stop.outcome
  | none =>
    match operand with
    | .error stop => stop.outcome
    | .ok val => .next (next val)

@[simp] theorem inOrder_some (stop : Stop) (operand : Except Stop Xmm) (next : Xmm → State) :
    inOrder (some stop) operand next = stop.outcome := rfl

@[simp] theorem inOrder_error (stop : Stop) (next : Xmm → State) : inOrder none (.error stop) next = stop.outcome := rfl

@[simp] theorem inOrder_ok (val : Xmm) (next : Xmm → State) : inOrder none (.ok val) next = .next (next val) := rfl

/-- The meaning of every instruction is its three parts in order. -/
theorem exec_eq_inOrder (i : Instr) (s : State) :
    exec i s = inOrder (instrCheck s i) (instrOperand s i) (instrNext s · i) := by
  cases i <;> rfl

/-- `Check` raises nothing exactly in a modelled mode, with the form enabled and a clean encoding (R183, R188). -/
theorem instrCheck_eq_none {s : State} {i : Instr} : instrCheck s i = none ↔
    s.cfg.mode.modelled = true ∧ enabled (instrForm i) s.cfg = true ∧ badPrefix i = false ∧ instrL i = false ∧
      badVvvv i = false := by
  cases i <;> simp only [instrCheck, checkLegacy_eq_none, checkVex_eq_none, enabled, instrForm, badPrefix, instrL, badVvvv,
    and_true]

/-- Where the form is enabled and no cause of `#UD` holds, `Check` raises nothing (R184 to R188). -/
theorem instrCheck_of_udCause {s : State} {i : Instr} (hm : s.cfg.mode.modelled = true)
    (hen : enabled (instrForm i) s.cfg = true) (hud : udCause s.cfg i = false) : instrCheck s i = none := by
  unfold udCause at hud
  simp only [Bool.or_eq_false_iff] at hud
  obtain ⟨⟨⟨-, hprefix⟩, hl⟩, hvvvv⟩ := hud
  exact instrCheck_eq_none.2 ⟨hm, hen, hprefix, hl, hvvvv⟩

/-- `VEX.L` and the reserved `vvvv` are no concern of a legacy form. -/
theorem instrL_badVvvv_of_legacy {i : Instr} (hf : instrForm i = .legacy) : instrL i = false ∧ badVvvv i = false := by
  cases i <;> cases hf <;> exact ⟨rfl, rfl⟩

/-- An instruction whose memory operand stops its read ends as that stop says. -/
theorem exec_of_memRead_error {i : Instr} {a : Addr} {s : State} {stop : Stop} (hcheck : instrCheck s i = none)
    (hsrc : instrSrc i = .mem a)
    (h : s.memRead (instrForm i) (memOperand s.cfg.mode (instrPrefixes i) a).seg
      (operandAddress s (instrPrefixes i) i.len a) = .error stop) : exec i s = stop.outcome := by
  have hoperand : instrOperand s i = .error stop := by
    rw [instrOperand, hsrc]
    exact h
  rw [exec_eq_inOrder, hcheck, hoperand, inOrder_error]

/-! ### The address checks (R45, R46) -/

/-- An operand is out of range by a byte that is non-canonical in Mode64, or beyond the limit in Mode32. -/
theorem outOfRange_eq_true {c : Config} {linear : Word} : outOfRange c linear = true ↔
    ∃ k < 16, (c.mode = .mode64 ∧ canonical c.vaBits (operandByte c.mode linear k) = false) ∨
      (c.mode = .mode32 ∧ beyondLimit c (operandByte c.mode linear k) = true) := by
  unfold outOfRange
  split <;> simp_all

/-- What `AddressOk` says is that both address checks pass. -/
theorem addressOk_iff {s : State} {f : Form} {linear : Word} :
    AddressOk s f linear ↔ misaligned f linear = false ∧ outOfRange s.cfg linear = false := by
  rw [AddressOk, misaligned_eq_false, ← Bool.not_eq_true (outOfRange _ _), outOfRange_eq_true]
  refine and_congr_right fun _ => ⟨?_, fun h => ⟨fun hm k hk => ?_, fun hm k hk => ?_⟩⟩
  · rintro ⟨h64, h32⟩ ⟨k, hk, ⟨hm, hbyte⟩ | ⟨hm, hbyte⟩⟩
    · exact Bool.false_ne_true (hbyte.symm.trans (h64 hm k hk))
    · exact Bool.false_ne_true ((h32 hm k hk).symm.trans hbyte)
  · exact (Bool.not_eq_false _).mp fun hbyte => h ⟨k, hk, .inl ⟨hm, hbyte⟩⟩
  · exact (Bool.not_eq_true _).mp fun hbyte => h ⟨k, hk, .inr ⟨hm, hbyte⟩⟩

section Checks

variable {s : State} {f : Form} {seg : Seg} {linear : Word}

theorem addressCheck_of_misaligned (hf : misaligned f linear = true) (hr : outOfRange s.cfg linear = false) :
    s.addressCheck f seg linear = some s.gp := by
  rw [State.addressCheck, hf, hr]

/-- Out of range through a segment other than SS both checks raise `#GP(0)`, so their order does not show (R189, I10). -/
theorem addressCheck_of_outOfRange (hr : outOfRange s.cfg linear = true) (hseg : seg ≠ .ss) :
    s.addressCheck f seg linear = some s.gp := by
  rw [State.addressCheck, hr]
  cases misaligned f linear <;> simp [hseg]

theorem addressCheck_of_outOfRange_ss (hr : outOfRange s.cfg linear = true) (hf : misaligned f linear = false) :
    s.addressCheck f .ss linear = some s.ss := by
  rw [State.addressCheck, hr, hf]
  rfl

/-- Out of range through SS the fault is one of the two, as the order of the checks has it (R190, I10). -/
theorem addressCheck_of_outOfRange_ss_or (hr : outOfRange s.cfg linear = true) :
    s.addressCheck f .ss linear = some s.ss ∨ s.addressCheck f .ss linear = some s.gp := by
  rw [State.addressCheck, hr]
  cases misaligned f linear with
  | false => exact .inl rfl
  | true => cases Config.canonicalFirst s.freeCounter <;> simp

theorem memRead_of_addressCheck {stop : Stop} (h : s.addressCheck f seg linear = some stop) :
    s.memRead f seg linear = .error stop :=
  memRead_error.2 (.inl h)

/-! ### The translation check (R45 step 3, R47, R48) -/

/-- An address that passes leaves the read to the translation. -/
theorem memRead_of_translationCheck {stop : Stop} (hok : AddressOk s f linear)
    (h : s.translationCheck linear = some stop) : s.memRead f seg linear = .error stop :=
  memRead_error.2 (.inr ⟨addressCheck_eq_none.2 (addressOk_iff.1 hok), h⟩)

/-- A byte of an operand lies on a device exactly when the list of device bytes names it. -/
theorem mem_deviceBytes {c : Config} {a : Word} : a ∈ deviceBytes c linear ↔
    ∃ k < 16, a = operandByte c.mode linear k ∧ translate c .read (operandByte c.mode linear k) = .device := by
  simp only [deviceBytes, List.mem_filterMap, List.mem_range]
  refine exists_congr fun k => and_congr_right fun _ => ?_
  cases translate c .read (operandByte c.mode linear k) <;> simp [eq_comm]

/-- The page fault reports one of the failing bytes, wherever the free value points (R47, I11). -/
theorem translationCheck_of_failingBytes (h : failingBytes s.cfg linear ≠ []) :
    ∃ g ∈ failingBytes s.cfg linear, s.translationCheck linear = some (.fault (.pageFault s.ip g.2 g.1)) := by
  unfold State.translationCheck
  cases hfailing : failingBytes s.cfg linear with
  | nil => exact absurd hfailing h
  | cons g gs =>
    refine ⟨_, ?_, rfl⟩
    rw [List.getD_eq_getElem _ _ (Nat.mod_lt _ (by simp))]
    exact List.getElem_mem _

theorem translationCheck_of_deviceBytes (hfailing : failingBytes s.cfg linear = [])
    (h : deviceBytes s.cfg linear ≠ []) : ∃ a, s.translationCheck linear = some (.refuse (.device .read a)) := by
  rw [State.translationCheck, hfailing]
  cases hdevice : deviceBytes s.cfg linear with
  | nil => exact absurd hdevice h
  | cons a as => exact ⟨a, rfl⟩

end Checks

/-! ### The bytes read (R40, R42) -/

/-- The state with another memory. -/
def withMem (m : Memory) (s : State) : State := { s with mem := m }

@[simp] theorem instrCheck_withMem (m : Memory) (s : State) (i : Instr) :
    instrCheck (withMem m s) i = instrCheck s i := by
  cases i <;> rfl

@[simp] theorem instrNext_withMem (m : Memory) (s : State) (val : Xmm) (i : Instr) :
    instrNext (withMem m s) val i = withMem m (instrNext s val i) := by
  cases i <;> rfl

theorem mapOutcome_inOrder (g : State → State) (check : Option Stop) (operand : Except Stop Xmm) (next : Xmm → State) :
    mapOutcome g (inOrder check operand next) = inOrder check operand (fun val => g (next val)) := by
  cases check with
  | some stop => exact mapOutcome_stop g stop
  | none =>
    cases operand with
    | error stop => exact mapOutcome_stop g stop
    | ok val => rfl

/-- Byte `k` of a value read is the byte at the operand's address `k` (R42). -/
theorem byteAt_bytes16 (s : State) (linear : Word) {k : Nat} (hk : k < 16) :
    byteAt (s.bytes16 linear) k = s.byteAtLinear (operandByte s.cfg.mode linear k) :=
  byteAt_packBytes _ hk

theorem byteAtLinear_withMem {m : Memory} {s : State} {a : Word}
    (h : ∀ p, translate s.cfg .read a = .location p → m.read p = s.mem.read p) :
    (withMem m s).byteAtLinear a = s.byteAtLinear a := by
  have hcfg : translate (withMem m s).cfg .read a = translate s.cfg .read a := rfl
  unfold State.byteAtLinear
  rw [hcfg]
  cases ht : translate s.cfg .read a with
  | location p => exact h p ht
  | _ => rfl

/-- A memory that agrees on the located bytes of an operand gives the read the same answer. -/
theorem memRead_withMem {m : Memory} {s : State} {linear : Word} (f : Form) (seg : Seg)
    (h : ∀ k < 16, ∀ p, translate s.cfg .read (operandByte s.cfg.mode linear k) = .location p →
      m.read p = s.mem.read p) : (withMem m s).memRead f seg linear = s.memRead f seg linear := by
  have hbytes : (withMem m s).bytes16 linear = s.bytes16 linear := by
    refine eq_of_byteAt fun k hk => ?_
    rw [byteAt_bytes16 _ _ hk, byteAt_bytes16 _ _ hk]
    exact byteAtLinear_withMem (h k hk)
  have haddress : (withMem m s).addressCheck f seg linear = s.addressCheck f seg linear := rfl
  have htranslation : (withMem m s).translationCheck linear = s.translationCheck linear := rfl
  simp only [State.memRead, haddress, htranslation, hbytes]

theorem instrOperand_withMem {m : Memory} {s : State} {i : Instr}
    (h : ∀ a, instrSrc i = .mem a → ∀ k < 16, ∀ p,
      translate s.cfg .read (operandByte s.cfg.mode (operandAddress s (instrPrefixes i) i.len a) k) = .location p →
      m.read p = s.mem.read p) : instrOperand (withMem m s) i = instrOperand s i := by
  unfold instrOperand
  cases hsrc : instrSrc i with
  | reg j => rfl
  | mem a => exact memRead_withMem _ _ (h a hsrc)

end Sys2Proof.Laws
end

section
/-!
PROOF. The statements of `20_memory.md` about memory operands: the faults and the refusal of a read, and what it reads.
-/

namespace Sys2Proof.Proofs

open Sys2Proof.Machine Sys2Proof.Laws

/-! ### Operands that stop the instruction -/

/-- Settles O36: the address check fails at alignment only. -/
theorem misalignedLegacyFaults : Obligations.MisalignedLegacyFaults := by
  intro i a s hf hm hen hprefix hsrc halign hok
  obtain ⟨hl, hvvvv⟩ := instrL_badVvvv_of_legacy hf
  have hen' : enabled (instrForm i) s.cfg = true := by rw [hf]; exact hen
  have hmis : misaligned (instrForm i) (operandAddress s (instrPrefixes i) i.len a) = true := by
    rw [← Bool.not_eq_false, misaligned_eq_false]
    exact fun h => halign (h hf)
  exact exec_of_memRead_error (instrCheck_eq_none.2 ⟨hm, hen', hprefix, hl, hvvvv⟩) hsrc
    (memRead_of_addressCheck (addressCheck_of_misaligned hmis (addressOk_iff.1 hok).2))

/-- Settles O37: the byte puts the operand out of range, and the segment names the fault. -/
theorem outOfRangeFaults : Obligations.OutOfRangeFaults := by
  intro i a s k hm hen hud hsrc hk hbyte
  have hcheck := instrCheck_of_udCause hm hen hud
  have hr := outOfRange_eq_true.2 ⟨k, hk, hbyte⟩
  refine ⟨fun hseg => ?other, fun hseg hmis => ?ssAligned, fun hseg => ?ss⟩
  case other =>
    exact exec_of_memRead_error (stop := s.gp) hcheck hsrc
      (memRead_of_addressCheck (addressCheck_of_outOfRange hr hseg))
  case ssAligned =>
    refine exec_of_memRead_error (stop := s.ss) hcheck hsrc (memRead_of_addressCheck ?_)
    rw [hseg]
    exact addressCheck_of_outOfRange_ss hr hmis
  case ss =>
    have hstop {stop : Stop}
        (h : s.addressCheck (instrForm i) .ss (operandAddress s (instrPrefixes i) i.len a) = some stop) :
        exec i s = stop.outcome :=
      exec_of_memRead_error hcheck hsrc (memRead_of_addressCheck (hseg ▸ h))
    exact (addressCheck_of_outOfRange_ss_or hr).imp hstop hstop

/-- Settles O38: the byte is among the failing ones, of which the fault reports one. -/
theorem operandPageFault : Obligations.OperandPageFault := by
  intro i a s k code hm hen hud hsrc hok hk hbyte
  have hfailing := mem_failingBytes (g := (_, code)).2 ⟨k, hk, rfl, hbyte⟩
  obtain ⟨⟨addr, code'⟩, hg, hstop⟩ := translationCheck_of_failingBytes (List.ne_nil_of_mem hfailing)
  obtain ⟨k', hk', rfl, hbyte'⟩ := mem_failingBytes.1 hg
  exact ⟨k', hk', code', hbyte',
    exec_of_memRead_error (instrCheck_of_udCause hm hen hud) hsrc (memRead_of_translationCheck hok hstop)⟩

/-- Settles O39: no byte fails, and the byte is among those on a device. -/
theorem deviceOperandRefused : Obligations.DeviceOperandRefused := by
  intro i a s k hm hen hud hsrc hok hk hbyte hnofail
  have hdevice := mem_deviceBytes.2 ⟨k, hk, rfl, hbyte⟩
  have hfailing : failingBytes s.cfg (operandAddress s (instrPrefixes i) i.len a) = [] := by
    refine List.eq_nil_iff_forall_not_mem.2 fun g hg => ?_
    obtain ⟨k', hk', -, hbyte'⟩ := mem_failingBytes.1 hg
    exact hnofail k' hk' _ hbyte'
  obtain ⟨addr, hstop⟩ := translationCheck_of_deviceBytes hfailing (List.ne_nil_of_mem hdevice)
  exact ⟨addr, exec_of_memRead_error (instrCheck_of_udCause hm hen hud) hsrc (memRead_of_translationCheck hok hstop)⟩

/-! ### What a read reads -/

/-- Settles O42: `Check` and the completion do not read memory, and the operand is the same. -/
theorem onlyOperandBytesAreRead : Obligations.OnlyOperandBytesAreRead := by
  intro i s m h
  calc exec i (withMem m s)
      = inOrder (instrCheck s i) (instrOperand s i) (fun val => withMem m (instrNext s val i)) := by
        simp only [exec_eq_inOrder, instrCheck_withMem, instrOperand_withMem h, instrNext_withMem]
    _ = mapOutcome (withMem m) (exec i s) := by rw [exec_eq_inOrder, mapOutcome_inOrder]

/-- Settles O43. -/
theorem readIsLittleEndian : Obligations.ReadIsLittleEndian := by
  intro s f seg addr val h
  obtain ⟨-, -, rfl⟩ := memRead_ok.1 h
  refine ⟨fun k hk => byteAt_bytes16 s addr hk, ?lowest, byteAt_bytes16 s addr (k := 15) (by decide)⟩
  case lowest =>
    have hzero : addr + BitVec.ofNat 64 0 = addr := BitVec.add_zero addr
    have hbyte := byteAt_bytes16 s addr (k := 0) (by decide)
    rw [operandByte, hzero] at hbyte
    exact hbyte

/-! ### Segments (R44, R63, R68) -/

theorem segOverride_eq_none {ps : List Prefix} (h : ∀ g, .seg g ∉ ps) : segOverride ps = none := by
  induction ps with
  | nil => rfl
  | cons p ps ih =>
    have htail : segOverride ps = none := ih fun g hg => h g (List.mem_cons_of_mem p hg)
    cases p with
    | seg g => exact absurd List.mem_cons_self (h g)
    | _ => exact htail

/-- The first override counts, wherever it stands. -/
theorem segOverride_append {ps : List Prefix} (h : ∀ g, .seg g ∉ ps) (g : Seg) (qs : List Prefix) :
    segOverride (ps ++ .seg g :: qs) = some g := by
  induction ps with
  | nil => rfl
  | cons p ps ih =>
    have htail : segOverride (ps ++ .seg g :: qs) = some g := ih fun g' hg => h g' (List.mem_cons_of_mem p hg)
    cases p with
    | seg g' => exact absurd List.mem_cons_self (h g')
    | _ => exact htail

theorem defaultSeg_none : defaultSeg none = .ds := rfl

theorem defaultSeg_some (b : GNum) : defaultSeg (some b) = if b = 4 ∨ b = 5 then .ss else .ds := by
  simp only [defaultSeg, Fin.ext_iff]
  rfl

/-- Settles O45: an override is found at whatever place, the default is that of the base, and the bases are listed by
mode. -/
theorem segmentRules : Obligations.SegmentRules := by
  refine ⟨fun m ps h b i scale disp d => ?default, fun m a ps qs g h => ?override, fun c hm => ?mode64, fun c hm => ?mode32⟩
  case default =>
    have hnone := segOverride_eq_none h
    have hseg (a : Addr) : (memOperand m ps a).seg = defaultSeg (addrBase a) := by
      rw [memOperand, hnone, Option.getD_none]
    simp only [hseg, addrBase, defaultSeg_some, defaultSeg_none, and_self]
  case override => rw [memOperand, segOverride_append h, Option.getD_some]
  case mode64 => simp [segBaseOf, hm]
  case mode32 => simp [segBaseOf, hm]

end Sys2Proof.Proofs
end

section
/-!
PROOF. `AddressFormula` (`20_memory.md` R44): addresses as numbers. Each term of an address is the number that R44 writes up
to a multiple of 2^asize, and so is their sum.
-/

namespace Sys2Proof.Proofs

open Sys2Proof.Machine Sys2Proof.Laws

/-! ### The terms of the offset -/

/-- `2^asize` (R44). -/
def addressModulus (narrow : Bool) : Int := if narrow then 2 ^ 32 else 2 ^ 64

/-- The offset of R44 before it is cut to the address size: the next instruction's address or the base register, the scaled
index, the signed displacement. -/
def offsetSum (s : State) (len : Nat) (o : MemOperand) : Int :=
  (if o.ripRel then ((s.nextIp len).toNat : Int) else baseValue s o.base) + indexValue s o.index o.scale + o.disp.toInt

theorem addressModulus_dvd (narrow : Bool) : addressModulus narrow ∣ 2 ^ 64 := by
  cases narrow <;> decide

/-- Words are added modulo 2^64, so modulo every address size. -/
theorem toNat_add_modEq (narrow : Bool) (a b : Word) :
    ((a + b).toNat : Int) ≡ a.toNat + b.toNat [ZMOD addressModulus narrow] := by
  refine Int.ModEq.of_dvd (addressModulus_dvd narrow) ?_
  rw [BitVec.toNat_add]
  push_cast
  exact Int.mod_modEq _ _

/-- A word and its signed reading differ by a multiple of 2^64. -/
theorem toNat_modEq_toInt (narrow : Bool) (a : Word) : (a.toNat : Int) ≡ a.toInt [ZMOD addressModulus narrow] := by
  refine Int.ModEq.of_dvd (addressModulus_dvd narrow) ?_
  rw [BitVec.toInt_eq_toNat_bmod]
  exact Int.bmod_emod.symm

theorem addrReg_modEq (s : State) (narrow : Bool) (i : GNum) :
    ((s.addrReg narrow i).toNat : Int) ≡ (s.x.get i).toNat [ZMOD addressModulus narrow] := by
  cases narrow with
  | false => rfl
  | true =>
    have hcut : (s.addrReg true i).toNat = (s.x.get i).toNat % 2 ^ 32 := by
      simp only [State.addrReg, if_true, BitVec.toNat_setWidth]
      omega
    rw [hcut]
    push_cast
    exact Int.mod_modEq _ _

/-- The base register of the offset, as a number (R44). -/
theorem baseTerm_modEq (s : State) (len : Nat) (o : MemOperand) :
    ((s.baseTerm len o).toNat : Int) ≡ (if o.ripRel then ((s.nextIp len).toNat : Int) else baseValue s o.base)
      [ZMOD addressModulus o.narrow] := by
  unfold State.baseTerm
  split_ifs
  · rfl
  · cases o.base with
    | none => rfl
    | some b => exact addrReg_modEq s o.narrow b

/-- The scaled index of the offset, as a number (R44, R68). -/
theorem indexTerm_modEq (s : State) (o : MemOperand) :
    ((s.indexTerm o).toNat : Int) ≡ indexValue s o.index o.scale [ZMOD addressModulus o.narrow] := by
  unfold State.indexTerm
  cases o.index with
  | none => rfl
  | some i =>
    have hshift : ((s.addrReg o.narrow i <<< o.scale.toNat).toNat : Int) ≡
        (s.addrReg o.narrow i).toNat * 2 ^ o.scale.toNat [ZMOD addressModulus o.narrow] := by
      refine Int.ModEq.of_dvd (addressModulus_dvd o.narrow) ?_
      rw [BitVec.toNat_shiftLeft, Nat.shiftLeft_eq]
      push_cast
      exact Int.mod_modEq _ _
    exact hshift.trans ((addrReg_modEq s o.narrow i).mul_right _)

/-! ### Effective and linear addresses -/

/-- `EA` is the sum of the terms modulo `2^asize` (R44). -/
theorem effective_toNat (s : State) (len : Nat) (o : MemOperand) :
    ((s.effective len o).toNat : Int) = offsetSum s len o % addressModulus o.narrow := by
  have hcut : ((s.effective len o).toNat : Int) =
      (s.baseTerm len o + s.indexTerm o + o.disp).toNat % addressModulus o.narrow := by
    unfold State.effective addressModulus
    dsimp only
    split_ifs
    · simp only [BitVec.toNat_setWidth]
      omega
    · omega
  rw [hcut]
  calc ((s.baseTerm len o + s.indexTerm o + o.disp).toNat : Int)
      ≡ (s.baseTerm len o + s.indexTerm o).toNat + o.disp.toNat [ZMOD addressModulus o.narrow] := toNat_add_modEq ..
    _ ≡ (s.baseTerm len o).toNat + (s.indexTerm o).toNat + o.disp.toNat [ZMOD addressModulus o.narrow] :=
      (toNat_add_modEq ..).add_right _
    _ ≡ offsetSum s len o [ZMOD addressModulus o.narrow] :=
      ((baseTerm_modEq s len o).add (indexTerm_modEq s o)).add (toNat_modEq_toInt ..)

/-- The linear address adds the segment base modulo 2^64 or 2^32 (R44). -/
theorem linear_toNat (s : State) (len : Nat) (o : MemOperand) : (s.linear len o).toNat =
    ((segBaseOf s.cfg o.seg).toNat + (s.effective len o).toNat) % (if s.cfg.mode = .mode32 then 2 ^ 32 else 2 ^ 64) := by
  unfold State.linear
  split_ifs with hm
  · rw [hm, wrapLinear_mode32_toNat, BitVec.toNat_add]
    omega
  · rw [wrapLinear_of_ne hm, BitVec.toNat_add]

/-! ### The addressing forms -/

/-- The address size is 32 bits in Mode32 and under `67` (R44, R63). -/
theorem addressModulus_narrowAddr (m : Mode) (ps : List Prefix) :
    addressModulus (narrowAddr m ps) = if m = .mode32 ∨ .addrSize ∈ ps then 2 ^ 32 else 2 ^ 64 := by
  cases m <;> simp [narrowAddr, addressModulus]

theorem dispValue_toInt (d : Disp) : (dispValue d).toInt = signedDisp d := by
  cases d with
  | none => rfl
  | d8 d => exact BitVec.toInt_signExtend_of_le (by decide)
  | d32 d => exact BitVec.toInt_signExtend_of_le (by decide)

/-- The address of a memory operand is that of the sum of its terms (R44). -/
theorem operandAddress_toNat (s : State) (len : Nat) (ps : List Prefix) (a : Addr) :
    ((operandAddress s ps len a).toNat : Int) =
      addressOfSum s ps (segBaseOf s.cfg (memOperand s.cfg.mode ps a).seg)
        (offsetSum s len (memOperand s.cfg.mode ps a)) := by
  unfold operandAddress addressOfSum
  rw [linear_toNat, ← addressModulus_narrowAddr]
  push_cast
  rw [effective_toNat]
  rfl

/-- Settles O44: the two sums of R44, and for each form the terms that its record holds. -/
theorem addressFormula : Obligations.AddressFormula := by
  refine ⟨fun s len o => ⟨?effective, linear_toNat s len o⟩, fun s len ps b i scale disp d => ?forms⟩
  case effective =>
    rw [effective_toNat, offsetSum, addressModulus]
    obtain ⟨seg, base, index, scale, disp, ripRel, narrow⟩ := o
    cases base <;> cases index <;> simp [baseValue, indexValue]
  case forms =>
    simp only [operandAddress_toNat, offsetSum, memOperand, addrBase, addrIndex, addrScale, addrDisp, addrIsRipRel,
      dispValue_toInt, signedDisp, advancedIp_eq_nextIp]
    simp [baseValue, indexValue]

end Sys2Proof.Proofs
end

section
/-!
PROOF. Which bytes each stage of the decoder needs (`30_encoding.md` R62, "the decoder finds the length by walking the
string"): what a stage accepts it reads from exactly the bytes it takes, and a string that ends before them is reported as
truncated.
-/

namespace Sys2Proof.Laws

/-! ### Reading exactly some bytes -/

/-- `read` takes exactly the bytes `front`: it answers `out` of whatever follows them, and `short` where the string ends
before they do. -/
structure ReadsExactly {β : Type} (short : β) (read : List Byte → β) (front : List Byte) (out : List Byte → β) :
    Prop where
  whole : ∀ t, read (front ++ t) = out t
  cut : ∀ n < front.length, read (front.take n) = short

section Rules

variable {β γ δ : Type} {short : β} {short₂ : γ} {short' : δ} {front front₂ : List Byte} {read out : List Byte → β}
  {read₂ out₂ : List Byte → γ} {read' out' : List Byte → δ}

theorem readsExactly_nil (h : ∀ t, read t = out t) : ReadsExactly short read [] out :=
  ⟨h, fun _ hn => absurd hn (Nat.not_lt_zero _)⟩

/-- One byte, and what is read after it. -/
theorem ReadsExactly.cons {b : Byte} (hnil : read [] = short)
    (h : ReadsExactly short (fun t => read (b :: t)) front out) : ReadsExactly short read (b :: front) out := by
  refine ⟨h.whole, fun n hn => ?_⟩
  cases n with
  | zero => exact hnil
  | succ n => exact h.cut n (Nat.lt_of_succ_lt_succ hn)

/-- A reader that runs `read` and changes its answer. -/
theorem ReadsExactly.map (h : ReadsExactly short read front out)
    (h' : ∀ bs t, (read bs = short → read' bs = short') ∧ (read bs = out t → read' bs = out' t)) :
    ReadsExactly short' read' front out' :=
  ⟨fun t => (h' _ t).2 (h.whole t), fun n hn => (h' _ []).1 (h.cut n hn)⟩

/-- A reader that runs `read`, then `read₂` on what is left. -/
theorem ReadsExactly.append (h : ReadsExactly short read front out) (h₂ : ReadsExactly short₂ read₂ front₂ out₂)
    (hshort : ∀ bs, read bs = short → read' bs = short')
    (hnext : ∀ bs t t', read bs = out t →
      (read₂ t = short₂ → read' bs = short') ∧ (read₂ t = out₂ t' → read' bs = out' t')) :
    ReadsExactly short' read' (front ++ front₂) out' := by
  refine ⟨fun t => ?_, fun n hn => ?_⟩
  · rw [List.append_assoc]
    exact (hnext _ _ t (h.whole _)).2 (h₂.whole t)
  · rw [List.take_append]
    by_cases hfront : n < front.length
    · rw [Nat.sub_eq_zero_of_le hfront.le, List.take_zero, List.append_nil]
      exact hshort _ (h.cut n hfront)
    · rw [List.take_of_length_le (Nat.le_of_not_lt hfront)]
      rw [List.length_append] at hn
      exact (hnext _ _ [] (h.whole _)).1 (h₂.cut _ (by omega))

end Rules

/-! ### Operands -/

theorem takeLe32_readsExactly {bs t : List Byte} {d : BitVec 32} (h : takeLe32 bs = some (d, t)) :
    ∃ front, bs = front ++ t ∧ ReadsExactly none takeLe32 front fun t => some (d, t) := by
  unfold takeLe32 at h
  split at h
  · next b0 b1 b2 b3 _ =>
    cases h
    exact ⟨[b0, b1, b2, b3], rfl, .cons rfl (.cons rfl (.cons rfl (.cons rfl (readsExactly_nil fun _ => rfl))))⟩
  · cases h

theorem takeDisp_readsExactly {mod : BitVec 2} {bs t : List Byte} {d : Disp} (h : takeDisp mod bs = some (d, t)) :
    ∃ front, bs = front ++ t ∧ ReadsExactly none (takeDisp mod) front fun t => some (d, t) := by
  unfold takeDisp at h
  split_ifs at h with h0 h1
  · cases h
    exact ⟨[], rfl, readsExactly_nil fun t => if_pos h0⟩
  · subst h1
    split at h
    · cases h
    · next b _ =>
      cases h
      exact ⟨[b], rfl, .cons rfl (readsExactly_nil fun t => rfl)⟩
  · split at h
    · cases h
    · next hd =>
      cases h
      obtain ⟨front, rfl, hread⟩ := takeLe32_readsExactly hd
      exact ⟨front, rfl, hread.map fun bs t => by
        constructor <;> intro hbs <;> simp only [takeDisp, if_neg h0, if_neg h1, hbs]⟩

theorem decodeSib_readsExactly {x b : Bool} {mod : BitVec 2} {bs t : List Byte} {a : Addr}
    (h : decodeSib x b mod bs = .ok (a, t)) :
    ∃ front, bs = front ++ t ∧ ReadsExactly (.error .truncated) (decodeSib x b mod) front fun t => .ok (a, t) := by
  unfold decodeSib at h
  split at h
  · cases h
  next s bs =>
  dsimp only at h
  by_cases hbase : s.extractLsb' 0 3 = 5#3 ∧ mod = 0
  · rw [if_pos hbase] at h
    split at h
    · cases h
    · next hd =>
      cases h
      obtain ⟨front, rfl, hread⟩ := takeLe32_readsExactly hd
      exact ⟨s :: front, rfl, .cons rfl (hread.map fun bs t => by
        constructor <;> intro hbs <;> simp only [decodeSib, if_pos hbase, hbs])⟩
  · rw [if_neg hbase] at h
    split at h
    · cases h
    · next hd =>
      cases h
      obtain ⟨front, rfl, hread⟩ := takeDisp_readsExactly hd
      exact ⟨s :: front, rfl, .cons rfl (hread.map fun bs t => by
        constructor <;> intro hbs <;> simp only [decodeSib, if_neg hbase, hbs])⟩

theorem decodeMem_readsExactly {m : Mode} {x b : Bool} {mod : BitVec 2} {rm : BitVec 3} {bs t : List Byte} {a : Addr}
    (h : decodeMem m x b mod rm bs = .ok (a, t)) :
    ∃ front, bs = front ++ t ∧ ReadsExactly (.error .truncated) (decodeMem m x b mod rm) front fun t => .ok (a, t) := by
  unfold decodeMem at h
  by_cases h4 : rm = 4
  · rw [if_pos h4] at h
    obtain ⟨front, rfl, hread⟩ := decodeSib_readsExactly h
    exact ⟨front, rfl, hread.map fun bs t => by constructor <;> intro hbs <;> simp only [decodeMem, if_pos h4, hbs]⟩
  rw [if_neg h4] at h
  by_cases h5 : rm = 5 ∧ mod = 0
  · rw [if_pos h5] at h
    split at h
    · cases h
    · next hd =>
      cases h
      obtain ⟨front, rfl, hread⟩ := takeLe32_readsExactly hd
      exact ⟨front, rfl, hread.map fun bs t => by
        constructor <;> intro hbs <;> simp only [decodeMem, if_neg h4, if_pos h5, hbs]⟩
  · rw [if_neg h5] at h
    split at h
    · cases h
    · next hd =>
      cases h
      obtain ⟨front, rfl, hread⟩ := takeDisp_readsExactly hd
      exact ⟨front, rfl, hread.map fun bs t => by
        constructor <;> intro hbs <;> simp only [decodeMem, if_neg h4, if_neg h5, hbs]⟩

theorem decodeModRM_readsExactly {m : Mode} {r x b : Bool} {bs t : List Byte} {d : VNum} {src : RM}
    (h : decodeModRM m r x b bs = .ok (d, src, t)) : ∃ front, bs = front ++ t ∧
      ReadsExactly (.error .truncated) (decodeModRM m r x b) front fun t => .ok (d, src, t) := by
  unfold decodeModRM at h
  split at h
  · cases h
  next mb bs =>
  split_ifs at h with hmod
  · cases h
    exact ⟨[mb], rfl, .cons rfl (readsExactly_nil fun t => if_pos hmod)⟩
  · split at h
    · cases h
    · next hmem =>
      cases h
      obtain ⟨front, rfl, hread⟩ := decodeMem_readsExactly hmem
      exact ⟨mb :: front, rfl, .cons rfl (hread.map fun bs t => by
        constructor <;> intro hbs <;> simp only [decodeModRM, if_neg hmod, hbs])⟩

theorem takeImm_readsExactly {o : AesOp} {bs t : List Byte} {imm : Byte} (h : takeImm o bs = .ok (imm, t)) :
    ∃ front, bs = front ++ t ∧ ReadsExactly (.error .truncated) (takeImm o) front fun t => .ok (imm, t) := by
  cases o with
  | keygen =>
    cases bs with
    | nil => cases h
    | cons b bs =>
      cases h
      exact ⟨[imm], rfl, .cons rfl (readsExactly_nil fun _ => rfl)⟩
  | _ =>
    cases h
    exact ⟨[], rfl, readsExactly_nil fun _ => rfl⟩

/-! ### The two formats -/

/-- What a VEX encoding holds beside its operands, as its bytes give it (R62, R71). -/
def vexEncOf (ps : List Prefix) (rex : Option (BitVec 4)) (p2 : Byte) : VexEnc :=
  ⟨ps, rex, p2.getLsbD 7, p2.getLsbD 2⟩

section Formats

variable {m : Mode} {ps : List Prefix} {rex : Option (BitVec 4)} {o : AesOp} {p1 p2 : Byte} {bs t : List Byte} {i : Instr}

/-- After the opcode of a legacy encoding there stand the operands and the immediate (R62, R66, R69). -/
theorem decodeLegacyTail_eq_ok : decodeLegacyTail m ps rex o bs = .ok (i, t) ↔ ∃ d src imm t',
    decodeModRM m ((rex.getD 0).getLsbD 2) ((rex.getD 0).getLsbD 1) ((rex.getD 0).getLsbD 0) bs = .ok (d, src, t') ∧
      takeImm o t' = .ok (imm, t) ∧ i = legacyInstrOf o ⟨ps, rex.map (·.getLsbD 3)⟩ d src imm := by
  constructor
  · intro h
    unfold decodeLegacyTail at h
    dsimp only at h
    split at h
    · cases h
    · next d src t' hmodrm =>
      split at h
      · cases h
      · next imm t'' himm =>
        cases h
        exact ⟨d, src, imm, t', hmodrm, himm, rfl⟩
  · rintro ⟨d, src, imm, t', hmodrm, himm, rfl⟩
    simp only [decodeLegacyTail, hmodrm, himm]

/-- The same of a VEX encoding, with the test of R74 on `vvvv` before it. -/
theorem decodeVexTail_eq_ok : decodeVexTail m ps rex o p1 p2 bs = .ok (i, t) ↔
    (m = .mode32 → o.isRound = true → p2.getLsbD 6 = true) ∧ ∃ d src imm t',
      decodeModRM m (!p1.getLsbD 7) (!p1.getLsbD 6) (decide (m = .mode64) && !p1.getLsbD 5) bs = .ok (d, src, t') ∧
        takeImm o t' = .ok (imm, t) ∧ i = vexInstrOf o (vexEncOf ps rex p2) (p2.extractLsb' 3 4) d src imm := by
  constructor
  · intro h
    unfold decodeVexTail at h
    split_ifs at h with hvvvv
    split at h
    · cases h
    · next d src t' hmodrm =>
      split at h
      · cases h
      · next imm t'' himm =>
        cases h
        exact ⟨by simpa using hvvvv, d, src, imm, t', hmodrm, himm, rfl⟩
  · rintro ⟨hvvvv, d, src, imm, t', hmodrm, himm, rfl⟩
    have hvvvv' : ¬ (m = .mode32 ∧ o.isRound = true ∧ p2.getLsbD 6 = false) := by simpa using hvvvv
    simp only [decodeVexTail, if_neg hvvvv', hmodrm, himm, vexEncOf]

theorem decodeLegacyTail_readsExactly (h : decodeLegacyTail m ps rex o bs = .ok (i, t)) : ∃ front, bs = front ++ t ∧
    ReadsExactly (.error .truncated) (decodeLegacyTail m ps rex o) front fun t => .ok (i, t) := by
  obtain ⟨d, src, imm, t', hmodrm, himm, rfl⟩ := decodeLegacyTail_eq_ok.1 h
  obtain ⟨operand, rfl, hoperand⟩ := decodeModRM_readsExactly hmodrm
  obtain ⟨immediate, rfl, himmediate⟩ := takeImm_readsExactly himm
  exact ⟨operand ++ immediate, (List.append_assoc ..).symm, hoperand.append himmediate
    (fun bs hbs => by simp only [decodeLegacyTail, hbs])
    fun bs t t' hbs => by constructor <;> intro himm <;> simp only [decodeLegacyTail, hbs, himm]⟩

theorem decodeVexTail_readsExactly (h : decodeVexTail m ps rex o p1 p2 bs = .ok (i, t)) : ∃ front, bs = front ++ t ∧
    ReadsExactly (.error .truncated) (decodeVexTail m ps rex o p1 p2) front fun t => .ok (i, t) := by
  obtain ⟨hvvvv, d, src, imm, t', hmodrm, himm, rfl⟩ := decodeVexTail_eq_ok.1 h
  have hvvvv' : ¬ (m = .mode32 ∧ o.isRound = true ∧ p2.getLsbD 6 = false) := by simpa using hvvvv
  obtain ⟨operand, rfl, hoperand⟩ := decodeModRM_readsExactly hmodrm
  obtain ⟨immediate, rfl, himmediate⟩ := takeImm_readsExactly himm
  exact ⟨operand ++ immediate, (List.append_assoc ..).symm, hoperand.append himmediate
    (fun bs hbs => by simp only [decodeVexTail, if_neg hvvvv', hbs])
    fun bs t t' hbs => by constructor <;> intro himm <;> simp only [decodeVexTail, if_neg hvvvv', hbs, himm, vexEncOf]⟩

/-- The tests on the prefixes come before the bytes after `0F` (R63, R65). -/
theorem decodeLegacy_of_prefixes (hrepne : .repne ∉ ps) (hrep : .rep ∉ ps) (hop : .opSize ∈ ps) :
    decodeLegacy m ps rex [] = .error .truncated ∧ decodeLegacy m ps rex [o.escape] = .error .truncated ∧
      ∀ t, decodeLegacy m ps rex (o.escape :: o.opcode :: t) = decodeLegacyTail m ps rex o t := by
  have ho : legacyOp o.escape o.opcode = some o := legacyOp_eq_some.2 ⟨rfl, rfl⟩
  have hesc : ¬ ¬ (o.escape = 0x38 ∨ o.escape = 0x3A) := not_not_intro (escape_cases o)
  simp only [decodeLegacy, hrepne, hrep, hop, List.contains_eq_mem, decide_false, decide_true, Bool.or_self, Bool.not_true,
    Bool.false_eq_true, if_false, if_neg hesc, ho, implies_true, and_self]

theorem decodeLegacy_readsExactly (h : decodeLegacy m ps rex bs = .ok (i, t)) : ∃ front, bs = front ++ t ∧
    ReadsExactly (.error .truncated) (decodeLegacy m ps rex) front fun t => .ok (i, t) := by
  obtain ⟨hrepne, hrep, hop, o, bs, rfl, htail⟩ := decodeLegacy_eq_ok.1 h
  obtain ⟨hnil, hescape, hopcode⟩ := decodeLegacy_of_prefixes (m := m) (rex := rex) (o := o) hrepne hrep hop
  obtain ⟨front, rfl, hread⟩ := decodeLegacyTail_readsExactly htail
  refine ⟨o.escape :: o.opcode :: front, rfl, .cons hnil (.cons hescape ?_)⟩
  simpa only [hopcode] using hread

/-- The tests on `P1` and `P2` come before the bytes after them (R71, R72, R74). -/
theorem decodeVex_of_fields (hles : m = .mode32 → p1.extractLsb' 6 2 = 3#2) (hpp : p2.extractLsb' 0 2 = 1#2)
    (hmap : p1.extractLsb' 0 5 = o.vexMap) :
    decodeVex m ps rex [p1] = .error .truncated ∧ decodeVex m ps rex [p1, p2] = .error .truncated ∧
      ∀ t, decodeVex m ps rex (p1 :: p2 :: o.opcode :: t) = decodeVexTail m ps rex o p1 p2 t := by
  have ho : vexOp (p1.extractLsb' 0 5) o.opcode = some o := vexOp_eq_some.2 ⟨hmap, rfl⟩
  have hles' : ¬ (m = .mode32 ∧ p1.extractLsb' 6 2 ≠ 3#2) := fun ⟨hm, hne⟩ => hne (hles hm)
  simp [decodeVex, hles', hpp, ho]

theorem decodeVex_readsExactly (h : decodeVex m ps rex bs = .ok (i, t)) : ∃ front, bs = front ++ t ∧
    ReadsExactly (.error .truncated) (decodeVex m ps rex) front fun t => .ok (i, t) := by
  obtain ⟨p1, p2, o, bs, rfl, hles, hpp, hmap, htail⟩ := decodeVex_eq_ok.1 h
  obtain ⟨hp1, hp2, hopcode⟩ := decodeVex_of_fields (ps := ps) (rex := rex) hles hpp hmap
  obtain ⟨front, rfl, hread⟩ := decodeVexTail_readsExactly htail
  refine ⟨p1 :: p2 :: o.opcode :: front, rfl, .cons rfl (.cons hp1 (.cons hp2 ?_))⟩
  simpa only [hopcode] using hread

/-- An accepted string starts with `0F` or `C4` after its prefixes and REX, and is read to the end of the instruction. -/
theorem decodeBody_readsExactly (h : decodeBody m ps rex bs = .ok (i, t)) :
    ∃ b front, prefixOf b = none ∧ isRex b = false ∧ bs = b :: front ++ t ∧
      ReadsExactly (.error .truncated) (fun t => decodeBody m ps rex (b :: t)) front fun t => .ok (i, t) := by
  obtain ⟨bs, ⟨rfl, hleg⟩ | ⟨rfl, hvex⟩⟩ := decodeBody_eq_ok.1 h
  · obtain ⟨front, rfl, hread⟩ := decodeLegacy_readsExactly hleg
    exact ⟨0x0F, front, by decide, by decide, rfl, hread⟩
  · obtain ⟨front, rfl, hread⟩ := decodeVex_readsExactly hvex
    exact ⟨0xC4, front, by decide, by decide, rfl, hread⟩

end Formats

/-! ### Prefixes and REX -/

section Decode

variable {m : Mode} {ps : List Prefix} {bs t : List Byte} {i : Instr}

/-- A string is its prefixes and what follows them. -/
theorem takePrefixes_eq_append (bs : List Byte) :
    bs = (takePrefixes bs).1.map prefixByte ++ (takePrefixes bs).2 := by
  induction bs with
  | nil => rfl
  | cons b bs ih =>
    unfold takePrefixes
    split
    · next hp => rw [List.map_cons, List.cons_append, ← ih, ← prefixOf_eq_some.1 hp]
    · rfl

theorem prefixesOnce_take (h : prefixesOnce ps = true) (n : Nat) : prefixesOnce (ps.take n) = true := by
  rw [prefixesOnce_iff] at h ⊢
  exact h.sublist ((List.take_sublist n ps).map _)

theorem addrSizeOk_take (h : addrSizeOk m ps = true) (n : Nat) : addrSizeOk m (ps.take n) = true := by
  rw [addrSizeOk_iff] at h ⊢
  exact h.imp_right fun hmem h' => hmem (List.mem_of_mem_take h')

section Prefixes

variable (hm : m.modelled = true) (honce : prefixesOnce ps = true) (haddr : addrSizeOk m ps = true)
include hm honce haddr

theorem decode_prefixes : decode m (ps.map prefixByte) = .error .truncated := by
  have hps : takePrefixes (ps.map prefixByte) = (ps, []) := by
    simpa [takePrefixes] using takePrefixes_append ps []
  simp [decode, hps, hm, honce, haddr, takeRex, decodeBody]

theorem decode_prefixes_cons {b : Byte} (hp : prefixOf b = none) (hb : isRex b = false) (t : List Byte) :
    decode m (ps.map prefixByte ++ b :: t) = decodeBody m ps none (b :: t) := by
  simp [decode, takePrefixes_append_cons ps t hp, takeRex_of_not_isRex m t hb, hm, honce, haddr]

theorem decode_prefixes_take {n : Nat} (hn : n ≤ ps.length) :
    decode m ((ps.map prefixByte ++ bs).take n) = .error .truncated := by
  rw [List.take_append_of_le_length (by simpa using hn), ← List.map_take]
  exact decode_prefixes hm (prefixesOnce_take honce n) (addrSizeOk_take haddr n)

/-- A reader of what stands after the prefixes, from the byte `b` on, makes the decoder a reader of the whole. -/
theorem decode_readsExactly_of_cons {b : Byte} {front : List Byte}
    {read : List Byte → Except DecodeError (Instr × List Byte)}
    (heq : ∀ t, decode m (ps.map prefixByte ++ b :: t) = read t)
    (hread : ReadsExactly (.error .truncated) read front fun t => .ok (i, t)) :
    ReadsExactly (.error .truncated) (decode m) (ps.map prefixByte ++ b :: front) fun t => .ok (i, t) := by
  refine ⟨fun t => ?_, fun n hn => ?_⟩
  · rw [List.append_assoc, List.cons_append, heq, hread.whole]
  · obtain hle | ⟨k, rfl⟩ : n ≤ ps.length ∨ ∃ k, n = ps.length + (k + 1) := by
      by_cases h : n ≤ ps.length
      · exact .inl h
      · exact .inr ⟨n - ps.length - 1, by omega⟩
    · exact decode_prefixes_take hm honce haddr hle
    · simp only [List.length_append, List.length_map, List.length_cons] at hn
      rw [← List.length_map (f := prefixByte) (as := ps), List.take_length_add_append, List.take_succ_cons, heq]
      exact hread.cut k (by omega)

end Prefixes

theorem decode_prefixes_rex (honce : prefixesOnce ps = true) (haddr : addrSizeOk .mode64 ps = true) {b : Byte}
    (hb : isRex b = true) (t : List Byte) :
    decode .mode64 (ps.map prefixByte ++ b :: t) = decodeBody .mode64 ps (some (b.extractLsb' 0 4)) t := by
  simp [decode, takePrefixes_append_cons ps t (prefixOf_of_isRex hb), takeRex_of_isRex t hb, Mode.modelled, honce, haddr]

/-- A REX byte is taken off in Mode64 only; without one the string stays as it is (R64). -/
theorem takeRex_cases (m : Mode) (bs : List Byte) : takeRex m bs = (none, bs) ∨
    ∃ b t, m = .mode64 ∧ isRex b = true ∧ bs = b :: t ∧ takeRex m bs = (some (b.extractLsb' 0 4), t) := by
  cases bs with
  | nil => exact .inl rfl
  | cons b t =>
    by_cases h : m = .mode64 ∧ isRex b = true
    · exact .inr ⟨b, t, h.1, h.2, rfl, if_pos h⟩
    · exact .inl (if_neg h)

/-- The decoder reads an instruction from exactly the bytes that it takes (R62). -/
theorem decode_readsExactly (h : decode m bs = .ok (i, t)) : ∃ front, bs = front ++ t ∧
    ReadsExactly (.error .truncated) (decode m) front fun t => .ok (i, t) := by
  obtain ⟨hm, honce, haddr, hbody⟩ := decode_eq_ok.1 h
  have hbs := takePrefixes_eq_append bs
  obtain hrex | ⟨rb, rest, rfl, hisRex, hrest, hrex⟩ := takeRex_cases m (takePrefixes bs).2
  all_goals
    rw [hrex] at hbody
    obtain ⟨b, front, hp, hb, hfront, hread⟩ := decodeBody_readsExactly hbody
  · rw [hfront] at hbs
    exact ⟨(takePrefixes bs).1.map prefixByte ++ b :: front, by rw [List.append_assoc]; exact hbs,
      decode_readsExactly_of_cons hm honce haddr (decode_prefixes_cons hm honce haddr hp hb) hread⟩
  · dsimp only at hfront
    rw [hrest, hfront] at hbs
    exact ⟨(takePrefixes bs).1.map prefixByte ++ rb :: b :: front, by rw [List.append_assoc]; exact hbs,
      decode_readsExactly_of_cons hm honce haddr (decode_prefixes_rex honce haddr hisRex) (.cons rfl hread)⟩

end Decode

end Sys2Proof.Laws
end

section
/-!
PROOF. What the decoder accepts is well-formed (`30_encoding.md` R62 to R74), and a string of some row with bytes enough
after its opcode is accepted (R60, R73).
-/

namespace Sys2Proof.Laws

/-! ### Register numbers, index and displacement -/

@[simp] theorem high_regNum (ext : Bool) (f : BitVec 3) : high (regNum ext f) = ext := by
  revert ext f
  decide

@[simp] theorem low3_regNum (ext : Bool) (f : BitVec 3) : low3 (regNum ext f) = f := by
  revert ext f
  decide

/-- The index that the SIB byte selects is no `rsp`, and needs `X` only where `X` is set (R68). -/
theorem decoded_index_ok (x : Bool) (f : BitVec 3) :
    indexOk (if f = 4#3 ∧ x = false then none else some (regNum x f)) = true ∧
      (x = false → indexHigh (if f = 4#3 ∧ x = false then none else some (regNum x f)) = false) := by
  revert x f
  decide

/-- Only `mod = 00` announces no displacement (R67). -/
theorem takeDisp_mod {mod : BitVec 2} {bs t : List Byte} {d : Disp} (h : takeDisp mod bs = some (d, t))
    (hd : d.mod = 0) : mod = 0 := by
  unfold takeDisp at h
  split_ifs at h with h0
  · exact h0
  all_goals
    split at h
    · cases h
    · cases h
      cases hd

theorem baseDispOk_of_takeDisp {base : GNum} {mod : BitVec 2} {bs t : List Byte} {d : Disp}
    (h : takeDisp mod bs = some (d, t)) (hbase : ¬ (low3 base = 5#3 ∧ mod = 0)) : baseDispOk base d = true :=
  baseDispOk_iff.2 fun ⟨hlow, hd⟩ => hbase ⟨hlow, takeDisp_mod h hd⟩

/-! ### Operands -/

section Operands

variable {m : Mode} {r x b : Bool} {mod : BitVec 2} {rm : BitVec 3} {bs t : List Byte} {a : Addr} {d : VNum} {src : RM}

/-- What decoding an operand under the bits `X` and `B` says of it: its shape is one of R67 and R68 in mode `m`, and it needs
no bit that is not set. -/
structure OperandFits (m : Mode) (x b : Bool) (src : RM) : Prop where
  shape : ∀ a, src = .mem a → a.wf m = true
  extX : x = false → src.extX = false
  extB : b = false → src.extB = false

theorem decodeSib_fits (h : decodeSib x b mod bs = .ok (a, t)) : OperandFits m x b (.mem a) := by
  unfold decodeSib at h
  split at h
  · cases h
  next s bs =>
  obtain ⟨hindex, hhigh⟩ := decoded_index_ok x (s.extractLsb' 3 3)
  dsimp only at h
  generalize (if s.extractLsb' 3 3 = 4#3 ∧ x = false then none else some (regNum x (s.extractLsb' 3 3))) = index at *
  split_ifs at h with hbase
  · split at h
    · cases h
    · cases h
      exact ⟨by rintro _ ⟨⟩; exact hindex, hhigh, fun _ => rfl⟩
  · split at h
    · cases h
    · next hd =>
      cases h
      have hdisp := baseDispOk_of_takeDisp (base := regNum b (s.extractLsb' 0 3)) hd (by simpa using hbase)
      exact ⟨by rintro _ ⟨⟩; simp [Addr.wf, hindex, hdisp], hhigh, fun hb => by simp [RM.extB, hb]⟩

theorem decodeMem_fits (hm : m.modelled = true) (h : decodeMem m x b mod rm bs = .ok (a, t)) :
    OperandFits m x b (.mem a) := by
  unfold decodeMem at h
  by_cases h4 : rm = 4
  · rw [if_pos h4] at h
    exact decodeSib_fits h
  rw [if_neg h4] at h
  by_cases h5 : rm = 5 ∧ mod = 0
  · rw [if_pos h5] at h
    split at h
    · cases h
    · cases h
      obtain rfl | rfl := mode_of_modelled hm <;> exact ⟨by rintro _ ⟨⟩; rfl, fun _ => rfl, fun _ => rfl⟩
  · rw [if_neg h5] at h
    split at h
    · cases h
    · next hd =>
      cases h
      have hdisp := baseDispOk_of_takeDisp (base := regNum b rm) hd (by simpa using h5)
      have h4' : rm ≠ 4#3 := h4
      exact ⟨by rintro _ ⟨⟩; simp [Addr.wf, h4', hdisp], fun _ => rfl, fun hb => by simp [RM.extB, hb]⟩

theorem decodeModRM_fits (hm : m.modelled = true) (h : decodeModRM m r x b bs = .ok (d, src, t)) :
    high d = r ∧ OperandFits m x b src := by
  unfold decodeModRM at h
  split at h
  · cases h
  split_ifs at h with hmod
  · cases h
    exact ⟨by simp, by rintro _ ⟨⟩, fun _ => rfl, fun hb => by simp [RM.extB, hb]⟩
  · split at h
    · cases h
    · next hmem =>
      cases h
      exact ⟨by simp, decodeMem_fits hm hmem⟩

/-- Outside Mode64, where `X` and `B` are clear, an operand that fits is well-formed; in Mode64 it always is (R66, R74). -/
theorem OperandFits.wf (h : OperandFits m x b src) (hext : m ≠ .mode64 → x = false ∧ b = false) : src.wf m = true := by
  have hbits : m ≠ .mode64 → src.extX = false ∧ src.extB = false := fun hm64 =>
    ⟨h.extX (hext hm64).1, h.extB (hext hm64).2⟩
  unfold RM.wf
  rw [Bool.and_eq_true]
  refine ⟨?shape, ?bits⟩
  case shape =>
    cases src with
    | reg j => rfl
    | mem a => exact h.shape a rfl
  case bits =>
    by_cases hm64 : m = .mode64
    · simp [hm64]
    · simp [hbits hm64]

/-! ### Strings that are long enough -/

theorem exists_takeLe32 (h : 4 ≤ bs.length) : ∃ d t, takeLe32 bs = some (d, t) := by
  match bs, h with
  | _ :: _ :: _ :: _ :: _, _ => exact ⟨_, _, rfl⟩

theorem exists_takeDisp (mod : BitVec 2) (h : 4 ≤ bs.length) : ∃ d t, takeDisp mod bs = some (d, t) := by
  obtain ⟨d, t, hd⟩ := exists_takeLe32 h
  unfold takeDisp
  split_ifs
  · exact ⟨_, _, rfl⟩
  · match bs, h with
    | _ :: _, _ => exact ⟨_, _, rfl⟩
  · exact ⟨.d32 d, t, by rw [hd]⟩

theorem exists_decodeSib (x b : Bool) (mod : BitVec 2) (h : 5 ≤ bs.length) :
    ∃ a t, decodeSib x b mod bs = .ok (a, t) := by
  match bs, h with
  | s :: bs, h =>
    have hbs : 4 ≤ bs.length := Nat.le_of_succ_le_succ h
    obtain ⟨d, t, hd⟩ := exists_takeLe32 hbs
    obtain ⟨disp, t', hdisp⟩ := exists_takeDisp mod hbs
    simp only [decodeSib, hd, hdisp]
    split_ifs <;> exact ⟨_, _, rfl⟩

theorem exists_decodeMem (m : Mode) (x b : Bool) (mod : BitVec 2) (rm : BitVec 3) (h : 5 ≤ bs.length) :
    ∃ a t, decodeMem m x b mod rm bs = .ok (a, t) := by
  have hbs : 4 ≤ bs.length := Nat.le_of_succ_le h
  obtain ⟨d, t, hd⟩ := exists_takeLe32 hbs
  obtain ⟨disp, t', hdisp⟩ := exists_takeDisp mod hbs
  unfold decodeMem
  by_cases h4 : rm = 4
  · rw [if_pos h4]
    exact exists_decodeSib x b mod h
  rw [if_neg h4, hd, hdisp]
  by_cases h5 : rm = 5 ∧ mod = 0
  · exact ⟨_, _, if_pos h5⟩
  · exact ⟨_, _, if_neg h5⟩

/-- Six bytes hold every operand (R66 to R68). -/
theorem exists_decodeModRM (m : Mode) (r x b : Bool) (h : 6 ≤ bs.length) :
    ∃ d src t, decodeModRM m r x b bs = .ok (d, src, t) := by
  match bs, h with
  | mb :: bs, h =>
    obtain ⟨a, t, hmem⟩ := exists_decodeMem m x b (mb.extractLsb' 6 2) (mb.extractLsb' 0 3) (Nat.le_of_succ_le_succ h)
    by_cases hmod : mb.extractLsb' 6 2 = 3#2
    · exact ⟨_, _, _, if_pos hmod⟩
    · exact ⟨regNum r (mb.extractLsb' 3 3), .mem a, t, by simp only [decodeModRM, if_neg hmod, hmem]⟩

theorem exists_takeImm (o : AesOp) (h : bs ≠ []) : ∃ imm t, takeImm o bs = .ok (imm, t) := by
  cases o with
  | keygen =>
    cases bs with
    | nil => exact absurd rfl h
    | cons b bs => exact ⟨b, bs, rfl⟩
  | _ => exact ⟨0, bs, rfl⟩

end Operands

/-! ### A whole instruction -/

section Whole

variable {m : Mode} {ps : List Prefix} {rex : Option (BitVec 4)} {o : AesOp} {p1 p2 : Byte} {bs t : List Byte} {i : Instr}

/-- Seven bytes hold every operand with an immediate. -/
theorem exists_operand_imm (m : Mode) (r x b : Bool) (o : AesOp) (h : 7 ≤ bs.length) :
    ∃ d src t' imm t, decodeModRM m r x b bs = .ok (d, src, t') ∧ takeImm o t' = .ok (imm, t) := by
  obtain ⟨d, src, t', hmodrm⟩ := exists_decodeModRM m r x b (Nat.le_of_succ_le h)
  have hlen := decodeModRM_length hmodrm
  have hsize := Proofs.rmSize_le src
  obtain ⟨imm, t, himm⟩ := exists_takeImm o (bs := t') (List.ne_nil_of_length_pos (by omega))
  exact ⟨d, src, t', imm, t, hmodrm, himm⟩

theorem decodeLegacyTail_wf (hm : m.modelled = true) (honce : prefixesOnce ps = true) (haddr : addrSizeOk m ps = true)
    (hrex : rex ≠ none → m = .mode64) (hrepne : .repne ∉ ps) (hrep : .rep ∉ ps) (hop : .opSize ∈ ps)
    (h : decodeLegacyTail m ps rex o bs = .ok (i, t)) : i.wf m = true := by
  obtain ⟨d, src, imm, t', hmodrm, -, rfl⟩ := decodeLegacyTail_eq_ok.1 h
  obtain ⟨hd, hsrc⟩ := decodeModRM_fits hm hmodrm
  have hclear : rex = none → ∀ k, (rex.getD 0).getLsbD k = false := by
    rintro rfl k
    exact BitVec.getLsbD_zero
  refine wf_legacyInstrOf.2 ⟨hm, legEnc_wf_iff.2 ⟨honce, haddr, hop, hrepne, hrep, fun hnone => ?norex, fun hsome => ?rex⟩,
    hsrc.wf fun hm64 => ?mode32⟩
  case norex =>
    have hclear := hclear (by simpa using hnone)
    exact ⟨hd.trans (hclear 2), hsrc.extX (hclear 1), hsrc.extB (hclear 0)⟩
  case rex => exact hrex (by simpa using hsome)
  case mode32 =>
    have hclear := hclear (by_contra fun hsome => hm64 (hrex hsome))
    exact ⟨hclear 1, hclear 0⟩

/-- In Mode32, where `P1[7:6]` is `11`, no register number above 7 is encoded (R74). -/
theorem vex_bits_of_not_les (h : p1.extractLsb' 6 2 = 3#2) : p1.getLsbD 7 = true ∧ p1.getLsbD 6 = true := by
  have hbit (k : Nat) : (p1.extractLsb' 6 2).getLsbD k = (3#2).getLsbD k := by rw [h]
  exact ⟨by simpa using hbit 1, by simpa using hbit 0⟩

theorem decodeVexTail_wf (hm : m.modelled = true) (honce : prefixesOnce ps = true) (haddr : addrSizeOk m ps = true)
    (hrex : rex ≠ none → m = .mode64) (hles : m = .mode32 → p1.extractLsb' 6 2 = 3#2)
    (h : decodeVexTail m ps rex o p1 p2 bs = .ok (i, t)) : i.wf m = true := by
  obtain ⟨hvvvv, d, src, imm, t', hmodrm, -, rfl⟩ := decodeVexTail_eq_ok.1 h
  obtain ⟨hd, hsrc⟩ := decodeModRM_fits hm hmodrm
  have hmode (hm64 : m ≠ .mode64) : m = .mode32 := (mode_of_modelled hm).resolve_left hm64
  refine wf_vexInstrOf.2 ⟨hm, vexEnc_wf_iff.2 ⟨honce, haddr, hrex, fun hm64 => ?high⟩, hsrc.wf fun hm64 => ⟨?x, ?b⟩,
    fun ho hm64 => ?vvvv⟩
  case high => rw [hd, (vex_bits_of_not_les (hles (hmode hm64))).1, Bool.not_true]
  case x => rw [(vex_bits_of_not_les (hles (hmode hm64))).2, Bool.not_true]
  case b => rw [decide_eq_false hm64, Bool.false_and]
  case vvvv => simpa using hvvvv (hmode hm64) ho

theorem decodeBody_wf (hm : m.modelled = true) (honce : prefixesOnce ps = true) (haddr : addrSizeOk m ps = true)
    (hrex : rex ≠ none → m = .mode64) (h : decodeBody m ps rex bs = .ok (i, t)) : i.wf m = true := by
  obtain ⟨bs, ⟨-, hleg⟩ | ⟨-, hvex⟩⟩ := decodeBody_eq_ok.1 h
  · obtain ⟨hrepne, hrep, hop, o, bs, -, htail⟩ := decodeLegacy_eq_ok.1 hleg
    exact decodeLegacyTail_wf hm honce haddr hrex hrepne hrep hop htail
  · obtain ⟨p1, p2, o, bs, -, hles, -, -, htail⟩ := decodeVex_eq_ok.1 hvex
    exact decodeVexTail_wf hm honce haddr hrex hles htail

/-- What the decoder accepts is well-formed (R62 to R74). -/
theorem decode_wf (h : decode m bs = .ok (i, t)) : i.wf m = true := by
  obtain ⟨hm, honce, haddr, hbody⟩ := decode_eq_ok.1 h
  refine decodeBody_wf hm honce haddr (fun hsome => ?_) hbody
  obtain hnone | ⟨-, -, hm64, -⟩ := takeRex_cases m (takePrefixes bs).2
  · exact absurd (congrArg Prod.fst hnone) hsome
  · exact hm64

end Whole

end Sys2Proof.Laws
end

section
/-!
PROOF. The statements of `30_encoding.md`: that decoder and encoder agree, what the decoder accepts and takes, the strings of
each row, the ignored bit `W`, and the instruction of more than 15 bytes.
-/

namespace Sys2Proof.Proofs

open Sys2Proof.Machine Sys2Proof.Laws

/-- Settles O1: the round trip, stage by stage, of Laws' `decode_encode`. -/
theorem decodeOfEncode : Obligations.DecodeOfEncode :=
  fun _ _ rest h => decode_encode h rest

/-- Settles O2: each stage checks what well-formedness asks, and reads exactly the bytes of the instruction. -/
theorem decodedIsWellFormed : Obligations.DecodedIsWellFormed := by
  intro m bs i rest h
  obtain ⟨front, rfl, hread⟩ := decode_readsExactly h
  obtain ⟨-, hlen⟩ := decode_length h
  rw [List.length_append] at hlen
  exact ⟨decode_wf h, front, rfl, by omega, hread.whole⟩

/-- Settles O3: the decoder reads the instruction from exactly its encoding, so it runs out of bytes before the end. -/
theorem encodingIsPrefixFree : Obligations.EncodingIsPrefixFree := by
  intro m i n hwf hn
  have hdecode := decode_encode hwf []
  rw [List.append_nil] at hdecode
  obtain ⟨front, hfront, hread⟩ := decode_readsExactly hdecode
  rw [List.append_nil] at hfront
  obtain ⟨hlen, -⟩ := encodedLengthBounds m i hwf
  rw [hfront] at hlen ⊢
  exact hread.cut n (by omega)

/-- Settles O7: the decoder evaluates to the readings of the tables. -/
theorem specWordsDecode : Obligations.SpecWordsDecode :=
  ⟨rfl, rfl, rfl, rfl, rfl, rfl⟩

/-! ### Match and mask (R73) -/

section Rows

variable {tail : List Byte}

theorem exists_decode_legacyRow (o : AesOp) (h : 7 ≤ tail.length) :
    ∃ e d src imm r, decode .mode64 (0x66 :: 0x0F :: o.escape :: o.opcode :: tail) =
      .ok (legacyInstrOf o e d src imm, r) := by
  obtain ⟨d, src, t, imm, r, hmodrm, himm⟩ := exists_operand_imm .mode64 false false false o h
  have htail : decodeLegacyTail .mode64 [.opSize] none o tail = .ok (legacyInstrOf o ⟨[.opSize], none⟩ d src imm, r) :=
    decodeLegacyTail_eq_ok.2 ⟨d, src, imm, t, hmodrm, himm, rfl⟩
  have hbody := decodeBody_eq_ok.2 ⟨_, .inl ⟨rfl, decodeLegacy_eq_ok.2
    ⟨by decide, by decide, by decide, o, tail, rfl, htail⟩⟩⟩
  exact ⟨_, d, src, imm, r, decode_of_decodeBody (ps := [.opSize]) rfl (by decide) (by decide) (by decide) (by decide)
    hbody⟩

theorem exists_decode_vexRow {p1 p2 : Byte} (o : AesOp) (hmap : p1.extractLsb' 0 5 = o.vexMap)
    (hpp : p2.extractLsb' 0 2 = 1#2) (h : 7 ≤ tail.length) :
    ∃ e d src imm r, decode .mode64 (0xC4 :: p1 :: p2 :: o.opcode :: tail) =
      .ok (vexInstrOf o e (p2.extractLsb' 3 4) d src imm, r) := by
  obtain ⟨d, src, t, imm, r, hmodrm, himm⟩ := exists_operand_imm .mode64 _ _ _ o h
  have hmode : Mode.mode64 ≠ .mode32 := by decide
  have htail : decodeVexTail .mode64 [] none o p1 p2 tail =
      .ok (vexInstrOf o (vexEncOf [] none p2) (p2.extractLsb' 3 4) d src imm, r) :=
    decodeVexTail_eq_ok.2 ⟨fun hm => absurd hm hmode, d, src, imm, t, hmodrm, himm, rfl⟩
  have hbody := decodeBody_eq_ok.2 ⟨_, .inr ⟨rfl, decodeVex_eq_ok.2
    ⟨p1, p2, o, tail, rfl, fun hm => absurd hm hmode, hpp, hmap, htail⟩⟩⟩
  exact ⟨_, d, src, imm, r, decode_of_decodeBody (ps := []) rfl (by decide) (by decide) (by decide) (by decide) hbody⟩

/-- A field that a mask covers can be read from the masked byte. -/
theorem extractLsb'_eq_of_mask {p mask val : Byte} (start len : Nat) (h : p &&& mask = val)
    (hmask : mask.extractLsb' start len = BitVec.allOnes len) : p.extractLsb' start len = val.extractLsb' start len := by
  rw [← h, BitVec.extractLsb'_and, hmask, BitVec.and_allOnes]

end Rows

/-- Settles O5: match and mask fix the fields that select the row, and seven bytes hold every operand. -/
theorem matchAndMaskSelectRow : Obligations.MatchAndMaskSelectRow := by
  intro p1 p2 tail hlen
  have hlegacy (o : AesOp) := exists_decode_legacyRow o hlen
  have hvex (o : AesOp) (hmap : p1.extractLsb' 0 5 = o.vexMap) (hpp : p2.extractLsb' 0 2 = 1#2) :=
    exists_decode_vexRow o hmap hpp hlen
  have hmap {map : Byte} (h : p1 &&& 0x1F = map) : p1.extractLsb' 0 5 = map.extractLsb' 0 5 :=
    extractLsb'_eq_of_mask 0 5 h rfl
  refine ⟨?dec, ?declast, ?enc, ?enclast, ?imc, hlegacy .keygen, fun h1 h2 => ?vexRounds, fun h1 h2 => ?vexImc,
    fun h1 h2 => ?vexKeygen⟩
  case dec => exact let ⟨e, d, src, _, r, h⟩ := hlegacy .dec; ⟨e, d, src, r, h⟩
  case declast => exact let ⟨e, d, src, _, r, h⟩ := hlegacy .declast; ⟨e, d, src, r, h⟩
  case enc => exact let ⟨e, d, src, _, r, h⟩ := hlegacy .enc; ⟨e, d, src, r, h⟩
  case enclast => exact let ⟨e, d, src, _, r, h⟩ := hlegacy .enclast; ⟨e, d, src, r, h⟩
  case imc => exact let ⟨e, d, src, _, r, h⟩ := hlegacy .imc; ⟨e, d, src, r, h⟩
  case vexRounds =>
    have hround {o : AesOp} (ho : o.vexMap = 2#5) :=
      hvex o ((hmap h1).trans ho.symm) (extractLsb'_eq_of_mask 0 2 h2 rfl)
    refine ⟨?vdec, ?vdeclast, ?venc, ?venclast⟩
    case vdec => exact let ⟨e, d, src, _, r, h⟩ := hround (o := .dec) rfl; ⟨e, d, _, src, r, h⟩
    case vdeclast => exact let ⟨e, d, src, _, r, h⟩ := hround (o := .declast) rfl; ⟨e, d, _, src, r, h⟩
    case venc => exact let ⟨e, d, src, _, r, h⟩ := hround (o := .enc) rfl; ⟨e, d, _, src, r, h⟩
    case venclast => exact let ⟨e, d, src, _, r, h⟩ := hround (o := .enclast) rfl; ⟨e, d, _, src, r, h⟩
  case vexImc =>
    obtain ⟨e, d, src, _, r, h⟩ := hvex .imc (hmap h1) (extractLsb'_eq_of_mask 0 2 h2 rfl)
    rw [extractLsb'_eq_of_mask 3 4 h2 rfl] at h
    exact ⟨e, d, src, r, h⟩
  case vexKeygen =>
    obtain ⟨e, d, src, imm, r, h⟩ := hvex .keygen (hmap h1) (extractLsb'_eq_of_mask 0 2 h2 rfl)
    rw [extractLsb'_eq_of_mask 3 4 h2 rfl] at h
    exact ⟨e, d, src, imm, r, h⟩

/-! ### `VEX.W` (R77) -/

section IgnoredW

variable {m : Mode} {ps : List Prefix} {rex : Option (BitVec 4)} {o : AesOp} {p1 p2 : Byte} {bs t : List Byte} {i : Instr}

/-- A VEX string after prefixes, and a REX byte or none, is decoded by the VEX stage under the bits of that byte. -/
theorem decode_vexString_eq_ok {rexBytes : List Byte} {r : Instr × List Byte}
    (hrex : rexBytes = [] ∨ ∃ b, isRex b = true ∧ rexBytes = [b]) :
    decode m (ps.map prefixByte ++ (rexBytes ++ 0xC4 :: bs)) = .ok r ↔
      m.modelled = true ∧ prefixesOnce ps = true ∧ addrSizeOk m ps = true ∧ (rexBytes ≠ [] → m = .mode64) ∧
        decodeVex m ps (rexBytes.head?.map (·.extractLsb' 0 4)) bs = .ok r := by
  obtain rfl | ⟨b, hb, rfl⟩ := hrex
  · rw [decode_eq_ok, List.nil_append, takePrefixes_append_cons ps bs (by decide), takeRex_of_not_isRex m bs (by decide)]
    simp [decodeBody]
  · rw [decode_eq_ok, List.singleton_append, takePrefixes_append_cons ps _ (prefixOf_of_isRex hb)]
    refine and_congr_right fun _ => and_congr_right fun _ => and_congr_right fun _ => ?_
    by_cases hm : m = .mode64
    · subst hm
      simp [takeRex_of_isRex _ hb, decodeBody]
    · rw [takeRex_of_ne_mode64 _ hm]
      exact iff_of_false (decodeBody_isRex_ne_ok hb) fun ⟨hm64, _⟩ => hm (hm64 (by simp))

/-- The encoding with the other `W`. -/
def flipW (e : VexEnc) : VexEnc := { e with w := !e.w }

theorem vexEncOf_flip (ps : List Prefix) (rex : Option (BitVec 4)) (p2 : Byte) :
    vexEncOf ps rex (p2 ^^^ 0x80) = flipW (vexEncOf ps rex p2) := by
  simp [vexEncOf, flipW]

/-- No other field of `P2` changes with `W`. -/
theorem flip_fields (p2 : Byte) : (p2 ^^^ 0x80).extractLsb' 0 2 = p2.extractLsb' 0 2 ∧
    (p2 ^^^ 0x80).extractLsb' 3 4 = p2.extractLsb' 3 4 ∧ (p2 ^^^ 0x80).getLsbD 6 = p2.getLsbD 6 := by
  refine ⟨?pp, ?vvvv, by simp⟩
  all_goals rw [BitVec.extractLsb'_xor]; exact BitVec.xor_zero

theorem decodeVex_flipW (h : decodeVex m ps rex (p1 :: p2 :: bs) = .ok (i, t)) : ∃ o e vvvv d src imm,
    i = vexInstrOf o e vvvv d src imm ∧
      decodeVex m ps rex (p1 :: (p2 ^^^ 0x80) :: bs) = .ok (vexInstrOf o (flipW e) vvvv d src imm, t) := by
  obtain ⟨p1, p2, o, bs, ⟨⟩, hles, hpp, hmap, htail⟩ := decodeVex_eq_ok.1 h
  obtain ⟨hvvvv, d, src, imm, t', hmodrm, himm, rfl⟩ := decodeVexTail_eq_ok.1 htail
  obtain ⟨hppFlip, hvvvvFlip, hbitFlip⟩ := flip_fields p2
  refine ⟨o, _, _, d, src, imm, rfl, decodeVex_eq_ok.2 ⟨p1, _, o, bs, rfl, hles, hppFlip.trans hpp, hmap,
    decodeVexTail_eq_ok.2 ⟨by rwa [hbitFlip], d, src, imm, t', hmodrm, himm, ?_⟩⟩⟩
  rw [vexEncOf_flip, hvvvvFlip]

/-- No part of an instruction's meaning reads `W`. -/
theorem vexInstrOf_flipW (o : AesOp) (e : VexEnc) (vvvv : BitVec 4) (d : VNum) (src : RM) (imm : Byte) :
    (vexInstrOf o (flipW e) vvvv d src imm).len = (vexInstrOf o e vvvv d src imm).len ∧
      instrDest (vexInstrOf o (flipW e) vvvv d src imm) = instrDest (vexInstrOf o e vvvv d src imm) ∧
      instrSrc (vexInstrOf o (flipW e) vvvv d src imm) = instrSrc (vexInstrOf o e vvvv d src imm) ∧
      ∀ s, exec (vexInstrOf o (flipW e) vvvv d src imm) s = exec (vexInstrOf o e vvvv d src imm) s := by
  cases o <;> exact ⟨rfl, rfl, rfl, fun _ => rfl⟩

end IgnoredW

/-- Settles O8: the two strings decode to the same row with the same operands, under encodings that differ in `W` alone. -/
theorem vexWIsIgnored : Obligations.VexWIsIgnored := by
  intro m ps rex p1 p2 op tail i r hrex h
  obtain ⟨hm, honce, haddr, hm64, hvex⟩ := (decode_vexString_eq_ok hrex).1 h
  obtain ⟨o, e, vvvv, d, src, imm, rfl, hvex'⟩ := decodeVex_flipW hvex
  exact ⟨_, (decode_vexString_eq_ok hrex).2 ⟨hm, honce, haddr, hm64, hvex'⟩, vexInstrOf_flipW o e vvvv d src imm⟩

/-! ### More than 15 bytes (R189 c) -/

/-- Fifteen bytes that can be fetched fill the window. -/
theorem window_full {s : State} {before front after : List Byte}
    (htext : s.cfg.program.text = before ++ (front ++ after)) (hoffset : s.textOffset = before.length)
    (hfront : front.length = 15)
    (hloc : ∀ k < 15, ∃ p, translate s.cfg .fetch (s.ip + BitVec.ofNat 64 k) = .location p) :
    s.window = (front, .full) := by
  have hfetch := fetchBytes_append s.cfg s.ip 0 after (hfront ▸ hloc)
  rw [hfront, Nat.add_zero] at hfetch
  rw [State.window, hoffset, htext, List.drop_left, hfetch]
  simp [fetchBytes]

/-- Past its tests, which the state passes, the fetch is the decoding of the window (R219). -/
theorem fetchInstr_eq_decodeWindow {s : State} (hm : s.cfg.mode.modelled = true)
    (hip : s.textOffset < s.cfg.program.text.length) (hplace : placementOpen s.cfg = false) :
    s.fetchInstr = s.decodeWindow := by
  simp [State.fetchInstr, hm, hip.ne, hip.not_gt, hplace]

/-- Settles O11: the window holds 15 bytes of the encoding, which the decoder reports as cut short. -/
theorem longInstructionFaults : Obligations.LongInstructionFaults := by
  intro s i before after hfault hwf hlen htext hoffset hplace hloc
  obtain ⟨hencode, -⟩ := encodedLengthBounds s.cfg.mode i hwf
  have hoffset' : s.textOffset = before.length := hoffset
  have htake : ((encode i).take 15).length = 15 := by rw [List.length_take]; omega
  have htext' : s.cfg.program.text = before ++ ((encode i).take 15 ++ ((encode i).drop 15 ++ after)) := by
    rw [← List.append_assoc (List.take ..), List.take_append_drop, htext]
  have hwindow := window_full htext' hoffset' htake hloc
  have hdecode : s.decodeWindow = .error s.gp := by
    rw [State.decodeWindow, hwindow, encodingIsPrefixFree s.cfg.mode i 15 hwf hlen]
  have hm : s.cfg.mode.modelled = true := (decode_eq_ok.1 (decode_encode hwf [])).1
  have hip : s.textOffset < s.cfg.program.text.length := by
    rw [hoffset', htext, List.length_append, List.length_append]
    omega
  simp only [step, hfault, fetchInstr_eq_decodeWindow hm hip hplace, hdecode]
  rfl

end Sys2Proof.Proofs
end

section
/-!
PROOF. Completion of an instruction (`60_exceptions.md` R183, R188), the `#UD` and the refusal of `VEX.L = 1` (R79), and the
doublewords of the key-assist result (`46_aeskeygenassist.md` R170).
-/

namespace Sys2Proof.Laws

open Sys2Proof.Machine

/-! ### Doublewords (R20) -/

/-- Two values with the same four doublewords are equal. -/
theorem eq_of_dwordAt {a b : Xmm} (h : ∀ n < 4, dwordAt a n = dwordAt b n) : a = b := by
  ext k hk
  have hbit := congrArg (fun w : Dword => w.getLsbD (k % 32)) (h (k / 32) (by omega))
  simp only [dwordAt, BitVec.getLsbD_extractLsb', Nat.mod_lt k (show 0 < 32 by decide), decide_true, Bool.true_and,
    Nat.div_add_mod] at hbit
  exact hbit

@[simp] theorem dwordAt_xor (a b : Xmm) (n : Nat) : dwordAt (a ^^^ b) n = dwordAt a n ^^^ dwordAt b n :=
  BitVec.extractLsb'_xor

/-- The four doublewords of a value written as their concatenation, the highest first. -/
theorem dwordAt_append (d3 d2 d1 d0 : Dword) :
    dwordAt (d3 ++ (d2 ++ (d1 ++ d0))) 0 = d0 ∧ dwordAt (d3 ++ (d2 ++ (d1 ++ d0))) 1 = d1 ∧
      dwordAt (d3 ++ (d2 ++ (d1 ++ d0))) 2 = d2 ∧ dwordAt (d3 ++ (d2 ++ (d1 ++ d0))) 3 = d3 := by
  have below (start : Nat) (h : start + 32 ≤ 96) :
      (d3 ++ (d2 ++ (d1 ++ d0))).extractLsb' start 32 = (d2 ++ (d1 ++ d0)).extractLsb' start 32 :=
    BitVec.extractLsb'_append_eq_of_add_le h
  have below' (start : Nat) (h : start + 32 ≤ 64) :
      (d2 ++ (d1 ++ d0)).extractLsb' start 32 = (d1 ++ d0).extractLsb' start 32 :=
    BitVec.extractLsb'_append_eq_of_add_le h
  refine ⟨?_, ?_, ?_, BitVec.extractLsb'_append_eq_left⟩
  · exact (below 0 (by decide)).trans ((below' 0 (by decide)).trans BitVec.extractLsb'_append_eq_right)
  · exact (below 32 (by decide)).trans ((below' 32 (by decide)).trans BitVec.extractLsb'_append_eq_left)
  · exact (below 64 (by decide)).trans BitVec.extractLsb'_append_eq_left

/-- The doublewords of the key-assist result (R170). -/
theorem dwordAt_aesKeygen (src : Xmm) (imm : Byte) :
    dwordAt (aesKeygen src imm) 0 = subWord (dwordAt src 1) ∧
      dwordAt (aesKeygen src imm) 1 = rotWord (subWord (dwordAt src 1)) ^^^ imm.setWidth 32 ∧
      dwordAt (aesKeygen src imm) 2 = subWord (dwordAt src 3) ∧
      dwordAt (aesKeygen src imm) 3 = rotWord (subWord (dwordAt src 3)) ^^^ imm.setWidth 32 :=
  dwordAt_append ..

/-- A byte shifted to the foot of doubleword `k` shows there and nowhere else. -/
theorem dwordAt_shiftLeft (imm : Byte) {k n : Nat} (hn : n < 4) :
    dwordAt (imm.setWidth 128 <<< (32 * k)) n = if n = k then imm.setWidth 32 else 0 := by
  apply BitVec.eq_of_getLsbD_eq
  intro j hj
  simp only [dwordAt, BitVec.getLsbD_extractLsb', BitVec.getLsbD_shiftLeft, BitVec.getLsbD_setWidth, hj]
  obtain hlt | rfl | hgt := lt_trichotomy n k
  · simp [hlt.ne, show 32 * n + j < 32 * k by omega]
  · simp [hj, show 32 * n + j < 128 by omega, show j < 128 by omega]
  · simp [hgt.ne', BitVec.getLsbD_of_ge imm (32 * n + j - 32 * k) (by omega)]

/-! ### Instructions that complete -/

/-- The operand read answers what the operand holds (R11, R42, R45). -/
theorem src2_of_operandHolds {s : State} {f : Form} {ps : List Prefix} {len : Nat} {src : RM} {val : Xmm}
    (h : OperandHolds s f ps len src val) : s.src2 f ps len src = .ok val := by
  cases src with
  | reg j => exact congrArg Except.ok h.symm
  | mem a =>
    obtain ⟨haddr, hbytes⟩ := h
    have hval : val = s.bytes16 (operandAddress s ps len a) := by
      refine eq_of_byteAt fun k hk => ?_
      obtain ⟨p, hp, hbyte⟩ := hbytes k hk
      rw [byteAt_bytes16 s _ hk, State.byteAtLinear, hp, hbyte]
    exact memRead_ok.2 ⟨addressCheck_eq_none.2 (addressOk_iff.1 haddr),
      translationCheck_eq_none.2 fun k hk => (hbytes k hk).imp fun _ => And.left, hval⟩

/-- An instruction that `Check` lets through completes on a readable operand, in the state that its parts give. -/
theorem exec_of_operandHolds {s : State} {i : Instr} {val : Xmm} (hcheck : instrCheck s i = none)
    (h : OperandHolds s (instrForm i) (instrPrefixes i) i.len (instrSrc i) val) :
    exec i s = .next (instrNext s val i) := by
  rw [exec_eq_inOrder, hcheck, instrOperand, src2_of_operandHolds h, inOrder_ok]

/-- The next state of a legacy instruction, field by field. -/
theorem instrNext_legacy {s : State} {i : Instr} (hf : instrForm i = .legacy) (val : Xmm) :
    instrNext s val i = { s with
      v := s.v.set (instrDest i).val { xmm := instrResult s val i, upper := s.upper (instrDest i) }
      ip := advancedIp s i.len
      freeCounter := s.freeCounter + 1 } := by
  rw [instrNext, hf, advancedIp_eq_nextIp]
  rfl

/-- The next state of a VEX instruction, field by field. -/
theorem instrNext_vex {s : State} {i : Instr} (hf : instrForm i = .vex) (val : Xmm) :
    instrNext s val i = { s with
      v := s.v.set (instrDest i).val
        { xmm := instrResult s val i, upper := List.replicate s.cfg.upperLanes 0 }
      ip := advancedIp s i.len
      freeCounter := s.freeCounter + 1 } := by
  rw [instrNext, hf, advancedIp_eq_nextIp]
  rfl

/-! ### `VEX.L = 1` (R79) -/

/-- With `L = 1` every test of `Check(VEX)` up to that of `L` raises `#UD`, as does that of `L` outside the refused case. -/
theorem checkVex_of_l {s : State} {e : VexEnc} {round bad : Bool} (hm : s.cfg.mode.modelled = true) (hl : e.l = true)
    (h : (round && s.cfg.hasVaes256) = false) : s.checkVex e round bad = some s.ud := by
  unfold State.checkVex
  rw [hm, hl, h]
  split_ifs <;> simp_all

/-- An enabled round opcode with `L = 1`, without forbidden prefixes, is refused on a part with 256-bit forms. -/
theorem checkVex_of_l_wide {s : State} {e : VexEnc} {bad : Bool} (hm : s.cfg.mode.modelled = true)
    (hen : enabledVex s.cfg = true) (hprefix : forbiddenPrefix e = false) (hl : e.l = true)
    (hwide : s.cfg.hasVaes256 = true) : s.checkVex e true bad = some (.refuse .vaes256) := by
  simp only [enabledVex, Bool.and_eq_true, Bool.not_eq_true'] at hen
  obtain ⟨⟨⟨⟨⟨haes, havx⟩, hxsave⟩, hsse⟩, hxavx⟩, -⟩ := hen
  simp only [State.checkVex, hm, haes, havx, hxsave, hsse, hxavx, hprefix, hl, hwide]
  rfl

theorem instrCheck_of_instrL {s : State} {i : Instr} (hm : s.cfg.mode.modelled = true) (hl : instrL i = true)
    (h : wide256 s.cfg i = false) : instrCheck s i = some s.ud := by
  have hround : (instrRoundVex i && s.cfg.hasVaes256) = false := by simpa [wide256, hl] using h
  cases i with
  | vaesdec e d a src => exact checkVex_of_l hm hl hround
  | vaesdeclast e d a src => exact checkVex_of_l hm hl hround
  | vaesenc e d a src => exact checkVex_of_l hm hl hround
  | vaesenclast e d a src => exact checkVex_of_l hm hl hround
  | vaesimc e vvvv d src => exact checkVex_of_l hm hl hround
  | vaeskeygenassist e vvvv d src imm => exact checkVex_of_l hm hl hround
  | _ => cases hl

theorem instrCheck_of_wide256 {s : State} {i : Instr} (hm : s.cfg.mode.modelled = true) (hen : enabledVex s.cfg = true)
    (hprefix : badPrefix i = false) (h : wide256 s.cfg i = true) : instrCheck s i = some (.refuse .vaes256) := by
  simp only [wide256, Bool.and_eq_true] at h
  obtain ⟨⟨hround, hl⟩, hwide⟩ := h
  cases i with
  | vaesdec e d a src => exact checkVex_of_l_wide hm hen hprefix hl hwide
  | vaesdeclast e d a src => exact checkVex_of_l_wide hm hen hprefix hl hwide
  | vaesenc e d a src => exact checkVex_of_l_wide hm hen hprefix hl hwide
  | vaesenclast e d a src => exact checkVex_of_l_wide hm hen hprefix hl hwide
  | _ => cases hround

theorem exec_of_instrCheck {s : State} {i : Instr} {stop : Stop} (h : instrCheck s i = some stop) :
    exec i s = stop.outcome := by
  rw [exec_eq_inOrder, h, inOrder_some]

end Sys2Proof.Laws
end

section
/-!
PROOF. The statements about the key-assist result and `VEX.L` that rest on the laws above.
-/

namespace Sys2Proof.Proofs

open Sys2Proof.Machine Sys2Proof.Laws

/-- Settles O25: the value described by its doublewords is the result function's, and both forms complete with it. -/
theorem aeskeygenassistResult : Obligations.AeskeygenassistResult := by
  intro d src imm val r s hm h0 h1 h2 h3
  obtain ⟨k0, k1, k2, k3⟩ := dwordAt_aesKeygen val imm
  have hr : r = aesKeygen val imm := by
    refine eq_of_dwordAt fun n hn => ?_
    interval_cases n
    · exact h0.trans k0.symm
    · exact h1.trans k1.symm
    · exact h2.trans k2.symm
    · exact h3.trans k3.symm
  subst hr
  refine ⟨fun e hen hlock hop => ?legacy, fun e hen hprefix hl hop => ?vex⟩
  case legacy =>
    have hcheck : instrCheck s (.aeskeygenassist e d src imm) = none := instrCheck_eq_none.2 ⟨hm, hen, hlock, rfl, rfl⟩
    exact (exec_of_operandHolds hcheck hop).trans (congrArg _ (instrNext_legacy rfl val))
  case vex =>
    have hcheck : instrCheck s (.vaeskeygenassist e 0b1111 d src imm) = none :=
      instrCheck_eq_none.2 ⟨hm, hen, hprefix, hl, rfl⟩
    exact (exec_of_operandHolds hcheck hop).trans (congrArg _ (instrNext_vex rfl val))

/-- Settles O33: only the wide round forms are taken out of `#UD`. -/
theorem vexLengthBit : Obligations.VexLengthBit := by
  intro i s hm hl
  have hud (h : wide256 s.cfg i = false) : exec i s = .fault (.invalidOpcode s.ip) :=
    exec_of_instrCheck (stop := s.ud) (instrCheck_of_instrL hm hl h)
  refine ⟨fun hnone => hud (by simp [wide256, hnone]), fun _ hkey => hud (by simp [wide256, hkey]),
    fun hwide hround hen hprefix => ?refused⟩
  exact exec_of_instrCheck (instrCheck_of_wide256 hm hen hprefix (by simp [wide256, hwide, hround, hl]))

/-- Settles O57: the definition names doublewords 1 and 3 alone, and XORs the immediate to doublewords 1 and 3. -/
theorem keygenDependence : Obligations.KeygenDependence := by
  refine ⟨fun x y imm h1 h3 => by simp only [aesKeygen, h1, h3], fun x imm => ?immediate⟩
  have hlow (n : Nat) (hn : n < 4) := dwordAt_shiftLeft imm (k := 1) hn
  have hhigh (n : Nat) (hn : n < 4) := dwordAt_shiftLeft imm (k := 3) hn
  obtain ⟨k0, k1, k2, k3⟩ := dwordAt_aesKeygen x imm
  obtain ⟨z0, z1, z2, z3⟩ := dwordAt_aesKeygen x 0
  refine eq_of_dwordAt fun n hn => ?_
  rw [dwordAt_xor, dwordAt_xor, hlow n hn, hhigh n hn]
  interval_cases n
  · rw [k0, z0]; simp
  · rw [k1, z1]; simp
  · rw [k2, z2]; simp
  · rw [k3, z3]; simp

end Sys2Proof.Proofs
end

section
/-!
PROOF. The field GF(2^8) of `40_aes_transformations.md` R101 and the S-box tables on it (R102, R103). Every additive map
that commutes with `xtime` commutes with multiplication; read for `xtime` and for multiplication itself, this gives the
laws of the field, and with them the uniqueness of inverses.
-/

namespace Sys2Proof.Laws

open Sys2Proof.Machine

/-! ### `xtime` is linear -/

theorem xor_interchange {w : Nat} (a b c d : BitVec w) : (a ^^^ b) ^^^ (c ^^^ d) = (a ^^^ c) ^^^ (b ^^^ d) := by
  ac_rfl

theorem ite_xor_zero (p q : Bool) (x : Byte) :
    (if (p ^^ q) then x else 0) = (if p then x else 0) ^^^ (if q then x else 0) := by
  cases p <;> cases q <;> simp

/-- The reduction polynomial is XORed in according to bit 7. -/
theorem xtime_eq (a : Byte) : xtime a = (a <<< 1) ^^^ (if a.getLsbD 7 then 0x1B else 0) := by
  unfold xtime
  split_ifs
  · rfl
  · exact BitVec.xor_zero.symm

theorem xtime_xor (a b : Byte) : xtime (a ^^^ b) = xtime a ^^^ xtime b := by
  simp only [xtime_eq, BitVec.shiftLeft_xor_distrib, BitVec.getLsbD_xor]
  rw [ite_xor_zero, xor_interchange]

theorem xtimes_xor (n : Nat) (a b : Byte) : xtimes n (a ^^^ b) = xtimes n a ^^^ xtimes n b := by
  induction n with
  | zero => rfl
  | succ n ih => simp only [xtimes, ih, xtime_xor]

/-- An additive map keeps 0. -/
theorem map_zero_of_map_xor {w : Nat} {f : BitVec w → BitVec w} (hf : ∀ a b, f (a ^^^ b) = f a ^^^ f b) : f 0 = 0 := by
  have h := hf 0 0
  rwa [BitVec.xor_self, BitVec.xor_self] at h

/-! ### The laws of multiplication -/

theorem gmulBits_xor_left (a b c : Byte) (n : Nat) : gmulBits (a ^^^ b) c n = gmulBits a c n ^^^ gmulBits b c n := by
  induction n with
  | zero => exact BitVec.xor_zero.symm
  | succ n ih =>
    simp only [gmulBits, ih, xtimes_xor]
    rw [xor_interchange]
    split_ifs
    · rfl
    · exact congrArg _ BitVec.xor_zero.symm

theorem gmulBits_xor_right (a b c : Byte) (n : Nat) : gmulBits a (b ^^^ c) n = gmulBits a b n ^^^ gmulBits a c n := by
  induction n with
  | zero => exact BitVec.xor_zero.symm
  | succ n ih =>
    simp only [gmulBits, ih, BitVec.getLsbD_xor]
    rw [ite_xor_zero, xor_interchange]

theorem gmul_xor_left (a b c : Byte) : gmul (a ^^^ b) c = gmul a c ^^^ gmul b c := gmulBits_xor_left a b c 8

theorem gmul_xor_right (a b c : Byte) : gmul a (b ^^^ c) = gmul a b ^^^ gmul a c := gmulBits_xor_right a b c 8

section Linear

variable {f : Byte → Byte} (hadd : ∀ a b, f (a ^^^ b) = f a ^^^ f b) (htime : ∀ a, f (xtime a) = xtime (f a))

include htime in
theorem map_xtimes (n : Nat) (a : Byte) : f (xtimes n a) = xtimes n (f a) := by
  induction n with
  | zero => rfl
  | succ n ih => rw [xtimes, xtimes, htime, ih]

include hadd htime in
/-- An additive map that commutes with `xtime` commutes with multiplication by any byte. -/
theorem map_gmul (a b : Byte) : f (gmul a b) = gmul (f a) b := by
  have hbits (n : Nat) : f (gmulBits a b n) = gmulBits (f a) b n := by
    induction n with
    | zero => exact map_zero_of_map_xor hadd
    | succ n ih =>
      rw [gmulBits, gmulBits, hadd, ih]
      split_ifs
      · rw [map_xtimes htime]
      · rw [map_zero_of_map_xor hadd]
  exact hbits 8

end Linear

theorem gmul_xtime_left (a b : Byte) : gmul (xtime a) b = xtime (gmul a b) :=
  (map_gmul xtime_xor (fun _ => rfl) a b).symm

theorem gmul_right_comm (a b c : Byte) : gmul (gmul a b) c = gmul (gmul a c) b :=
  map_gmul (f := (gmul · c)) (gmul_xor_left · · c) (gmul_xtime_left · c) a b

theorem xtimes_one {n : Nat} (hn : n < 8) : xtimes n 1 = 1#8 <<< n := by
  interval_cases n <;> rfl

/-- The first `n` bits of a byte are the powers of `x` below `n` that its partial product by 1 adds up. -/
theorem getLsbD_gmulBits_one (b : Byte) (n i : Nat) (hn : n ≤ 8) :
    (gmulBits 1 b n).getLsbD i = (decide (i < n) && b.getLsbD i) := by
  induction n with
  | zero => simp [gmulBits]
  | succ n ih =>
    have hbit : (if b.getLsbD n then 1#8 <<< n else 0).getLsbD i = (decide (i = n) && b.getLsbD i) := by
      by_cases hi : i = n
      · subst hi
        cases h : b.getLsbD i <;> simp [show i < 8 by omega]
      · split_ifs
        · simp [hi, BitVec.getLsbD_one]
          omega
        · simp [hi]
    rw [gmulBits, xtimes_one hn, BitVec.getLsbD_xor, ih (by omega), hbit]
    obtain hlt | rfl | hgt := lt_trichotomy i n
    · simp [hlt, hlt.ne, hlt.le]
    · simp
    · simp [hgt.ne', show ¬ i < n by omega, show ¬ i ≤ n by omega]

theorem gmul_one_left (b : Byte) : gmul 1 b = b := by
  apply BitVec.eq_of_getLsbD_eq
  intro i hi
  rw [gmul]
  exact (getLsbD_gmulBits_one b 8 i le_rfl).trans (by simp [hi])

theorem gmul_comm (a b : Byte) : gmul a b = gmul b a := by
  calc gmul a b = gmul (gmul 1 a) b := by rw [gmul_one_left]
    _ = gmul (gmul 1 b) a := gmul_right_comm 1 a b
    _ = gmul b a := by rw [gmul_one_left]

theorem gmul_assoc (a b c : Byte) : gmul (gmul a b) c = gmul a (gmul b c) := by
  rw [gmul_comm a b, gmul_right_comm, gmul_comm]

@[simp] theorem gmul_one_right (a : Byte) : gmul a 1#8 = a := gmul_01 a

theorem gmul_zero_left (b : Byte) : gmul 0 b = 0 := map_zero_of_map_xor (f := (gmul · b)) (gmul_xor_left · · b)

@[simp] theorem gmul_zero_right (a : Byte) : gmul a 0#8 = 0#8 := map_zero_of_map_xor (gmul_xor_right a)

/-- A byte has at most one inverse. -/
theorem gmul_inverse_unique {a b c : Byte} (hb : gmul a b = 1) (hc : gmul a c = 1) : b = c := by
  calc b = gmul (gmul a c) b := by rw [hc, gmul_one_left]
    _ = gmul (gmul a b) c := gmul_right_comm a c b
    _ = c := by rw [hb, gmul_one_left]

/-! ### The tables -/

/-- The inverse read off the table of `S`: the affine map undone. -/
def affineUndo (b : Byte) : Byte := b.rotateLeft 1 ^^^ b.rotateLeft 3 ^^^ b.rotateLeft 6 ^^^ 0x05

theorem affine_affineUndo : ∀ b, affine (affineUndo b) = b := by decide +kernel

theorem gmul_affineUndo_sbox : ∀ a, a ≠ 0 → gmul a (affineUndo (sbox a)) = 1 := by decide +kernel

theorem invSbox_sbox : ∀ a, invSbox (sbox a) = a := by decide +kernel

theorem sbox_invSbox : ∀ a, sbox (invSbox a) = a := by decide +kernel

/-- A rotation left by `k` brings bit `i + (8 - k)` to bit `i`. -/
theorem getLsbD_rotateLeft_byte (b : Byte) {k l i : Nat} (hkl : k + l = 8) (hl : 0 < l) (hi : i < 8) :
    (b.rotateLeft k).getLsbD i = b.getLsbD ((i + l) % 8) := by
  rw [BitVec.getLsbD_rotateLeft, Nat.mod_eq_of_lt (by omega)]
  by_cases h : i < k
  · simp [h, show (i + l) % 8 = 8 - k + i by omega]
  · simp [h, hi, show (i + l) % 8 = i - k by omega]

/-- The affine map bit by bit (R102). -/
theorem getLsbD_affine (b : Byte) {i : Nat} (hi : i < 8) :
    (affine b).getLsbD i = (b.getLsbD i ^^ b.getLsbD ((i + 4) % 8) ^^ b.getLsbD ((i + 5) % 8) ^^
      b.getLsbD ((i + 6) % 8) ^^ b.getLsbD ((i + 7) % 8) ^^ (0x63#8).getLsbD i) := by
  have h1 := getLsbD_rotateLeft_byte b (k := 1) (l := 7) rfl (by decide) hi
  have h2 := getLsbD_rotateLeft_byte b (k := 2) (l := 6) rfl (by decide) hi
  have h3 := getLsbD_rotateLeft_byte b (k := 3) (l := 5) rfl (by decide) hi
  have h4 := getLsbD_rotateLeft_byte b (k := 4) (l := 4) rfl (by decide) hi
  simp only [affine, BitVec.getLsbD_xor, h1, h2, h3, h4, BitVec.ofNat_eq_ofNat, Bool.xor_assoc, Bool.xor_comm,
    Bool.xor_left_comm]

end Sys2Proof.Laws
end

section
/-!
PROOF. The transformations of `40_aes_transformations.md` R104 to R110, cell by cell: byte substitution maps single
cells, a row shift moves them, and a column mix multiplies each column by a circulant matrix over the field, so two mixes
compose by the product of their matrices.
-/

namespace Sys2Proof.Laws

open Sys2Proof.Machine

/-! ### Bytewise maps (R104) -/

/-- The value whose bytes are the images of those of `v`. -/
def mapBytes (f : Byte → Byte) (v : Xmm) : Xmm := packBytes fun i => f (byteAt v i)

theorem subBytes_eq : subBytes = mapBytes sbox := rfl
theorem invSubBytes_eq : invSubBytes = mapBytes invSbox := rfl

theorem byteAt_mapBytes (f : Byte → Byte) (v : Xmm) {i : Nat} (hi : i < 16) :
    byteAt (mapBytes f v) i = f (byteAt v i) :=
  byteAt_packBytes _ hi

theorem cell_mapBytes (f : Byte → Byte) (v : Xmm) {r c : Nat} (hr : r < 4) (hc : c < 4) :
    cell (mapBytes f v) r c = f (cell v r c) :=
  byteAt_mapBytes f v (by omega)

theorem mapBytes_mapBytes_of_leftInverse {f g : Byte → Byte} (h : ∀ a, g (f a) = a) (v : Xmm) :
    mapBytes g (mapBytes f v) = v :=
  eq_of_byteAt fun i hi => by rw [byteAt_mapBytes _ _ hi, byteAt_mapBytes _ _ hi, h]

theorem invSubBytes_subBytes (v : Xmm) : invSubBytes (subBytes v) = v := by
  rw [subBytes_eq, invSubBytes_eq]
  exact mapBytes_mapBytes_of_leftInverse invSbox_sbox v

theorem subBytes_invSubBytes (v : Xmm) : subBytes (invSubBytes v) = v := by
  rw [subBytes_eq, invSubBytes_eq]
  exact mapBytes_mapBytes_of_leftInverse sbox_invSbox v

/-! ### Row shifts (R105, R106) -/

/-- The value whose cell `(r, c)` is the cell of `v` in row `r` and column `col r c`. -/
def moveCells (col : Nat → Nat → Nat) (v : Xmm) : Xmm := ofCells fun r c => cell v r (col r c)

/-- The column from which `ShiftRows` takes cell `(r, c)`. -/
def colRight (r c : Nat) : Nat := (c + r) % 4

/-- The column from which `InvShiftRows` takes cell `(r, c)`. -/
def colLeft (r c : Nat) : Nat := (c + 4 - r) % 4

theorem shiftRows_eq : shiftRows = moveCells colRight := rfl
theorem invShiftRows_eq : invShiftRows = moveCells colLeft := rfl

theorem colRight_lt (r c : Nat) : colRight r c < 4 := Nat.mod_lt _ (by decide)
theorem colLeft_lt (r c : Nat) : colLeft r c < 4 := Nat.mod_lt _ (by decide)

theorem colRight_colLeft {r c : Nat} (hr : r < 4) (hc : c < 4) : colRight r (colLeft r c) = c := by
  unfold colRight colLeft
  omega

theorem colLeft_colRight {r c : Nat} (hr : r < 4) (hc : c < 4) : colLeft r (colRight r c) = c := by
  unfold colRight colLeft
  omega

theorem cell_moveCells (col : Nat → Nat → Nat) (v : Xmm) {r c : Nat} (hr : r < 4) (hc : c < 4) :
    cell (moveCells col v) r c = cell v r (col r c) :=
  cell_ofCells _ hr hc

/-- Byte `i` is the cell in row `i mod 4` and column `i / 4`. -/
theorem byteAt_moveCells (col : Nat → Nat → Nat) (v : Xmm) {i : Nat} (hi : i < 16) :
    byteAt (moveCells col v) i = byteAt v (i % 4 + 4 * col (i % 4) (i / 4)) :=
  byteAt_packBytes _ hi

theorem moveCells_moveCells {col back : Nat → Nat → Nat} (hlt : ∀ r c, back r c < 4)
    (h : ∀ {r c}, r < 4 → c < 4 → col r (back r c) = c) (v : Xmm) : moveCells back (moveCells col v) = v :=
  eq_of_cell fun r hr c hc => by rw [cell_moveCells _ _ hr hc, cell_moveCells _ _ hr (hlt r c), h hr hc]

theorem invShiftRows_shiftRows (v : Xmm) : invShiftRows (shiftRows v) = v := by
  rw [shiftRows_eq, invShiftRows_eq]
  exact moveCells_moveCells colLeft_lt colRight_colLeft v

theorem shiftRows_invShiftRows (v : Xmm) : shiftRows (invShiftRows v) = v := by
  rw [shiftRows_eq, invShiftRows_eq]
  exact moveCells_moveCells colRight_lt colLeft_colRight v

theorem moveCells_xor (col : Nat → Nat → Nat) (a b : Xmm) :
    moveCells col (a ^^^ b) = moveCells col a ^^^ moveCells col b :=
  eq_of_cell fun r hr c hc => by simp only [cell_xor, cell_moveCells _ _ hr hc]

/-- A bytewise map commutes with a move of the cells. -/
theorem mapBytes_moveCells (f : Byte → Byte) {col : Nat → Nat → Nat} (hlt : ∀ r c, col r c < 4) (v : Xmm) :
    mapBytes f (moveCells col v) = moveCells col (mapBytes f v) :=
  eq_of_cell fun r hr c hc => by
    rw [cell_mapBytes _ _ hr hc, cell_moveCells _ _ hr hc, cell_moveCells _ _ hr hc, cell_mapBytes _ _ hr (hlt r c)]

/-! ### Columns times a matrix over the field -/

/-- Row `r` of the column `s` times the matrix `m`. -/
def mulColumn (m : Nat → Nat → Byte) (s : Nat → Byte) (r : Nat) : Byte :=
  gmul (s 0) (m r 0) ^^^ gmul (s 1) (m r 1) ^^^ gmul (s 2) (m r 2) ^^^ gmul (s 3) (m r 3)

theorem mulColumn_xor (m : Nat → Nat → Byte) (s t : Nat → Byte) (r : Nat) :
    mulColumn m (fun i => s i ^^^ t i) r = mulColumn m s r ^^^ mulColumn m t r := by
  simp only [mulColumn, gmul_xor_left]
  ac_rfl

theorem mulColumn_congr (m : Nat → Nat → Byte) {s t : Nat → Byte} (h : ∀ i < 4, s i = t i) (r : Nat) :
    mulColumn m s r = mulColumn m t r := by
  simp only [mulColumn, h 0 (by decide), h 1 (by decide), h 2 (by decide), h 3 (by decide)]

/-- Column `j` of the product of two matrices is the second times column `j` of the first. -/
theorem mulColumn_mulColumn (m n : Nat → Nat → Byte) (s : Nat → Byte) (r : Nat) :
    mulColumn n (mulColumn m s) r = mulColumn (fun r j => mulColumn n (m · j) r) s r := by
  simp only [mulColumn, gmul_xor_left, gmul_xor_right, gmul_assoc]
  ac_rfl

/-- The matrix `n` times the matrix `m` is the identity matrix. -/
def MulIsOne (n m : Nat → Nat → Byte) : Prop := ∀ r < 4, ∀ j < 4, mulColumn n (m · j) r = if j = r then 1 else 0

theorem mulColumn_mulColumn_of_mulIsOne {m n : Nat → Nat → Byte} (h : MulIsOne n m) (s : Nat → Byte) {r : Nat}
    (hr : r < 4) : mulColumn n (mulColumn m s) r = s r := by
  rw [mulColumn_mulColumn, mulColumn, h r hr 0 (by decide), h r hr 1 (by decide), h r hr 2 (by decide),
    h r hr 3 (by decide)]
  interval_cases r <;> simp

/-- A matrix multiplies a column of equal bytes by the sums of its rows. -/
theorem mulColumn_const (m : Nat → Nat → Byte) (a : Byte) (r : Nat) :
    mulColumn m (fun _ => a) r = gmul a (m r 0 ^^^ m r 1 ^^^ m r 2 ^^^ m r 3) := by
  simp only [mulColumn, gmul_xor_right]

/-- Each column of `v` times the matrix `m`. -/
def mulColumns (m : Nat → Nat → Byte) (v : Xmm) : Xmm := ofCells fun r c => mulColumn m (cell v · c) r

theorem cell_mulColumns (m : Nat → Nat → Byte) (v : Xmm) {r c : Nat} (hr : r < 4) (hc : c < 4) :
    cell (mulColumns m v) r c = mulColumn m (cell v · c) r :=
  cell_ofCells _ hr hc

theorem mulColumns_xor (m : Nat → Nat → Byte) (a b : Xmm) :
    mulColumns m (a ^^^ b) = mulColumns m a ^^^ mulColumns m b :=
  eq_of_cell fun r hr c hc => by
    simp only [cell_xor, cell_mulColumns _ _ hr hc]
    exact mulColumn_xor ..

theorem mulColumns_mulColumns_of_mulIsOne {m n : Nat → Nat → Byte} (h : MulIsOne n m) (v : Xmm) :
    mulColumns n (mulColumns m v) = v :=
  eq_of_cell fun r hr c hc => by
    rw [cell_mulColumns _ _ hr hc, mulColumn_congr _ fun i hi => cell_mulColumns m v hi hc]
    exact mulColumn_mulColumn_of_mulIsOne h (cell v · c) hr

/-- A matrix whose rows sum to 1 fixes a value whose columns hold equal bytes. -/
theorem mulColumns_of_cells_eq {m : Nat → Nat → Byte} (hsum : ∀ r < 4, m r 0 ^^^ m r 1 ^^^ m r 2 ^^^ m r 3 = 1)
    {v : Xmm} (hv : ∀ c < 4, ∀ r < 4, cell v r c = cell v 0 c) : mulColumns m v = v :=
  eq_of_cell fun r hr c hc => by
    rw [cell_mulColumns _ _ hr hc, mulColumn_congr m (hv c hc), mulColumn_const, hsum r hr, gmul_01, hv c hc r hr]

/-! ### Column mixes (R107, R108) -/

/-- The circulant matrix with the given row 0. -/
def circulant (row : List Byte) (r j : Nat) : Byte := row.getD ((j + 4 - r) % 4) 0

/-- The matrix of `MixColumns`. -/
def mixMatrix : Nat → Nat → Byte := circulant [0x02, 0x03, 0x01, 0x01]

/-- The matrix of `InvMixColumns`. -/
def invMixMatrix : Nat → Nat → Byte := circulant [0x0E, 0x0B, 0x0D, 0x09]

theorem mixByte_eq (s : Nat → Byte) {r : Nat} (hr : r < 4) :
    mixByte (s 0) (s 1) (s 2) (s 3) r = mulColumn mixMatrix s r := by
  interval_cases r <;> simp [mixByte, mulColumn, mixMatrix, circulant]

theorem invMixByte_eq (s : Nat → Byte) {r : Nat} (hr : r < 4) :
    invMixByte (s 0) (s 1) (s 2) (s 3) r = mulColumn invMixMatrix s r := by
  interval_cases r <;> rfl

theorem mixColumns_eq : mixColumns = mulColumns mixMatrix := by
  funext v
  refine eq_of_cell fun r hr c hc => ?_
  rw [mixColumns, cell_ofCells _ hr hc, cell_mulColumns _ _ hr hc, mixByte_eq (cell v · c) hr]

theorem invMixColumns_eq : invMixColumns = mulColumns invMixMatrix := by
  funext v
  refine eq_of_cell fun r hr c hc => ?_
  rw [invMixColumns, cell_ofCells _ hr hc, cell_mulColumns _ _ hr hc, invMixByte_eq (cell v · c) hr]

theorem mulIsOne_invMixMatrix_mixMatrix : MulIsOne invMixMatrix mixMatrix := by
  unfold MulIsOne
  decide +kernel

theorem mulIsOne_mixMatrix_invMixMatrix : MulIsOne mixMatrix invMixMatrix := by
  unfold MulIsOne
  decide +kernel

theorem invMixColumns_mixColumns (v : Xmm) : invMixColumns (mixColumns v) = v := by
  rw [invMixColumns_eq, mixColumns_eq]
  exact mulColumns_mulColumns_of_mulIsOne mulIsOne_invMixMatrix_mixMatrix v

theorem mixColumns_invMixColumns (v : Xmm) : mixColumns (invMixColumns v) = v := by
  rw [invMixColumns_eq, mixColumns_eq]
  exact mulColumns_mulColumns_of_mulIsOne mulIsOne_mixMatrix_invMixMatrix v

theorem mixMatrix_row_sum : ∀ r < 4, mixMatrix r 0 ^^^ mixMatrix r 1 ^^^ mixMatrix r 2 ^^^ mixMatrix r 3 = 1 := by
  decide

theorem invMixMatrix_row_sum :
    ∀ r < 4, invMixMatrix r 0 ^^^ invMixMatrix r 1 ^^^ invMixMatrix r 2 ^^^ invMixMatrix r 3 = 1 := by
  decide

/-! ### Words (R109, R110) -/

theorem extractLsb'_subWord (x : Dword) {i : Nat} (hi : i < 4) :
    (subWord x).extractLsb' (8 * i) 8 = sbox (x.extractLsb' (8 * i) 8) := by
  interval_cases i
  · exact (BitVec.extractLsb'_append_eq_of_add_le (by decide)).trans
      ((BitVec.extractLsb'_append_eq_of_add_le (by decide)).trans BitVec.extractLsb'_append_eq_right)
  · exact (BitVec.extractLsb'_append_eq_of_add_le (by decide)).trans
      ((BitVec.extractLsb'_append_eq_of_add_le (by decide)).trans BitVec.extractLsb'_append_eq_left)
  · exact (BitVec.extractLsb'_append_eq_of_add_le (by decide)).trans BitVec.extractLsb'_append_eq_left
  · exact BitVec.extractLsb'_append_eq_left

theorem rotWord_eq_rotateRight (x : Dword) : rotWord x = x.rotateRight 8 := by
  apply BitVec.eq_of_getLsbD_eq
  intro i hi
  rw [rotWord, BitVec.getLsbD_append, BitVec.getLsbD_extractLsb', BitVec.getLsbD_extractLsb',
    BitVec.getLsbD_rotateRight]
  by_cases h : i < 24
  · simp [h]
  · simp [h, hi, show i - 24 < 8 by omega]

end Sys2Proof.Laws
end

section
/-!
PROOF. The statements about the AES transformations (`40_aes_transformations.md` R100 to R112).
-/

namespace Sys2Proof.Proofs

open Sys2Proof.Machine Sys2Proof.Laws

/-! ### The field and the S-box (R101 to R103) -/

/-- Settles O46: the definitions evaluate to the worked values. -/
theorem fieldArithmeticValues : Obligations.FieldArithmeticValues :=
  ⟨rfl, rfl, rfl, rfl, rfl, rfl, rfl⟩

/-- Settles O47: `xtime` is linear, and multiplications commute with each other. -/
theorem fieldArithmeticLaws : Obligations.FieldArithmeticLaws := fun a b c =>
  ⟨gmul_xor_left a b c, gmul_xor_right a b c, gmul_comm a b⟩

/-- Settles O48: the table holds the affine map of an inverse of each byte, and a byte has no other inverse. -/
theorem sboxIsAffineOfInverse : Obligations.SboxIsAffineOfInverse := by
  refine ⟨fun a b h => ?affine, fun a => ?inverse, ?bijective, fun b i hi => getLsbD_affine b hi, rfl, rfl, rfl⟩
  case affine =>
    obtain ⟨rfl, rfl⟩ | hab := h
    · rfl
    · have ha : a ≠ 0 := by
        rintro rfl
        rw [gmul_zero_left] at hab
        exact absurd hab (by decide)
      rw [gmul_inverse_unique hab (gmul_affineUndo_sbox a ha), affine_affineUndo]
  case inverse =>
    by_cases ha : a = 0
    · exact ⟨0, .inl ⟨ha, rfl⟩⟩
    · exact ⟨affineUndo (sbox a), .inr (gmul_affineUndo_sbox a ha)⟩
  case bijective => exact Function.bijective_iff_has_inverse.2 ⟨invSbox, invSbox_sbox, sbox_invSbox⟩

/-- Settles O49: the two tables undo each other byte by byte. -/
theorem inverseSbox : Obligations.InverseSbox :=
  ⟨fun a => ⟨invSbox_sbox a, sbox_invSbox a⟩, rfl, rfl, rfl⟩

/-! ### The state (R104 to R108) -/

/-- Settles O50: both are bytewise maps. -/
theorem subBytesBytewise : Obligations.SubBytesBytewise :=
  ⟨fun v _ hi => ⟨byteAt_mapBytes sbox v hi, byteAt_mapBytes invSbox v hi⟩, by decide +kernel, by decide +kernel⟩

/-- Settles O51: the row shifts move cells within their rows, to columns that undo each other. -/
theorem rowShifts : Obligations.RowShifts := by
  refine ⟨fun v r c hr hc => ⟨cell_moveCells colRight v hr hc, ?back⟩, fun v i hi => ?bytes,
    fun v => ⟨invShiftRows_shiftRows v, shiftRows_invShiftRows v⟩, by decide +kernel, by decide +kernel⟩
  case back => exact (cell_moveCells colLeft v hr (colRight_lt r c)).trans (congrArg _ (colLeft_colRight hr hc))
  case bytes =>
    rw [shiftRows_eq, invShiftRows_eq, byteAt_moveCells _ _ hi, byteAt_moveCells _ _ hi]
    interval_cases i <;> exact ⟨rfl, rfl⟩

/-- Settles O52: the equations are the definition's, cell by cell, and the matrices of the two mixes are inverse. -/
theorem columnMixes : Obligations.ColumnMixes := by
  refine ⟨fun v c hc => ?mix, fun v c hc => ?invMix,
    fun v => ⟨invMixColumns_mixColumns v, mixColumns_invMixColumns v⟩, ?values⟩
  case mix =>
    have hcell {r : Nat} (hr : r < 4) := cell_ofCells
      (fun r c => mixByte (cell v 0 c) (cell v 1 c) (cell v 2 c) (cell v 3 c) r) hr hc
    exact ⟨hcell (by decide), hcell (by decide), hcell (by decide), hcell (by decide)⟩
  case invMix =>
    have hcell {r : Nat} (hr : r < 4) := cell_ofCells
      (fun r c => invMixByte (cell v 0 c) (cell v 1 c) (cell v 2 c) (cell v 3 c) r) hr hc
    exact ⟨hcell (by decide), hcell (by decide), hcell (by decide), hcell (by decide)⟩
  case values => decide +kernel

/-- Settles O53: the four bytes of `SubWord` are concatenated in place, and both rotations move the same bits. -/
theorem wordFunctions : Obligations.WordFunctions :=
  ⟨fun x _ hi => extractLsb'_subWord x hi, rotWord_eq_rotateRight, rfl, rfl, rfl, rfl, rfl⟩

/-- Settles O54: substitutions map bytes, row shifts move cells, and column mixes multiply columns by a matrix. -/
theorem transformationLaws : Obligations.TransformationLaws := by
  refine ⟨fun a => ⟨invShiftRows_shiftRows a, shiftRows_invShiftRows a, invSubBytes_subBytes a, subBytes_invSubBytes a,
    invMixColumns_mixColumns a, mixColumns_invMixColumns a⟩, fun a => ?commute, fun a b => ?linear, ?zero,
    ⟨by decide +kernel, by decide +kernel⟩, fun a ha => ?equalColumns⟩
  case commute =>
    rw [subBytes_eq, invSubBytes_eq, shiftRows_eq, invShiftRows_eq]
    exact ⟨mapBytes_moveCells sbox colRight_lt a, mapBytes_moveCells invSbox colLeft_lt a,
      mapBytes_moveCells sbox colLeft_lt a, mapBytes_moveCells invSbox colRight_lt a⟩
  case linear =>
    rw [mixColumns_eq, invMixColumns_eq, shiftRows_eq, invShiftRows_eq]
    exact ⟨mulColumns_xor _ a b, mulColumns_xor _ a b, moveCells_xor _ a b, moveCells_xor _ a b⟩
  case zero =>
    rw [mixColumns_eq, invMixColumns_eq, shiftRows_eq, invShiftRows_eq]
    have hmix (m : Nat → Nat → Byte) := map_zero_of_map_xor (mulColumns_xor m)
    have hshift (col : Nat → Nat → Nat) := map_zero_of_map_xor (moveCells_xor col)
    exact ⟨hmix _, hmix _, hshift _, hshift _⟩
  case equalColumns =>
    rw [mixColumns_eq, invMixColumns_eq]
    exact ⟨mulColumns_of_cells_eq mixMatrix_row_sum ha, mulColumns_of_cells_eq invMixMatrix_row_sum ha⟩

end Sys2Proof.Proofs
end

section
/-!
PROOF. What an instruction that completes does, for every instruction at once, and the round functions as inverses of each
other (`41_aesdec.md` R123, `42_aesdeclast.md` R132, `43_aesenc.md` R142).
-/

namespace Sys2Proof.Laws

open Sys2Proof.Machine

/-! ### Instructions of one form -/

/-- A legacy instruction completes on every readable operand where its form is enabled and `LOCK` is absent (R22,
R27). -/
theorem exec_legacy_of_operandHolds {s : State} {i : Instr} {val : Xmm} (hf : instrForm i = .legacy)
    (hm : s.cfg.mode.modelled = true) (hen : enabledLegacy s.cfg = true) (hprefix : badPrefix i = false)
    (h : OperandHolds s .legacy (instrPrefixes i) i.len (instrSrc i) val) :
    exec i s = .next { s with
      v := s.v.set (instrDest i).val { xmm := instrResult s val i, upper := s.upper (instrDest i) }
      ip := advancedIp s i.len
      freeCounter := s.freeCounter + 1 } := by
  rw [← instrNext_legacy hf]
  exact exec_of_operandHolds (instrCheck_eq_none.2 ⟨hm, by rwa [hf], hprefix, instrL_badVvvv_of_legacy hf⟩)
    (by rwa [hf])

/-- A VEX instruction completes on every readable operand where its form is enabled and its encoding is clean (R23,
R27). -/
theorem exec_vex_of_operandHolds {s : State} {i : Instr} {val : Xmm} (hf : instrForm i = .vex)
    (hm : s.cfg.mode.modelled = true) (hen : enabledVex s.cfg = true) (hprefix : badPrefix i = false)
    (hl : instrL i = false) (hvvvv : badVvvv i = false)
    (h : OperandHolds s .vex (instrPrefixes i) i.len (instrSrc i) val) :
    exec i s = .next { s with
      v := s.v.set (instrDest i).val
        { xmm := instrResult s val i, upper := List.replicate s.cfg.upperLanes 0 }
      ip := advancedIp s i.len
      freeCounter := s.freeCounter + 1 } := by
  rw [← instrNext_vex hf]
  exact exec_of_operandHolds (instrCheck_eq_none.2 ⟨hm, by rwa [hf], hprefix, hl, hvvvv⟩) (by rwa [hf])

/-! ### The low half of the destination -/

/-- In either form the low half of the destination is the instruction's result. -/
theorem instrNext_xmm_dest (s : State) (val : Xmm) (i : Instr) :
    (instrNext s val i).xmm (instrDest i) = instrResult s val i := by
  unfold instrNext
  cases instrForm i with
  | legacy => simp
  | vex => simp

/-- The three parts in order go on only to the state that the third makes of the operand read. -/
theorem inOrder_eq_next {check : Option Stop} {operand : Except Stop Xmm} {next : Xmm → State} {t : State}
    (h : inOrder check operand next = .next t) : ∃ val, operand = .ok val ∧ t = next val := by
  match check, operand with
  | some stop, _ => cases stop <;> cases h
  | none, .error stop => cases stop <;> cases h
  | none, .ok val => exact ⟨val, rfl, (Host.Outcome.next.inj h).symm⟩

/-- With a register operand, the low half of the destination is the result on that register's low half. -/
theorem xmm_dest_of_exec_reg {i : Instr} {j : VNum} {s t : State} (hsrc : instrSrc i = .reg j)
    (h : exec i s = .next t) : t.xmm (instrDest i) = instrResult s (s.xmm j) i := by
  obtain ⟨val, hop, rfl⟩ := inOrder_eq_next ((exec_eq_inOrder i s).symm.trans h)
  have hval : val = s.xmm j := by
    rw [instrOperand, hsrc] at hop
    exact (Except.ok.inj hop).symm
  rw [instrNext_xmm_dest, hval]

/-- Two instructions with the same register operand that make the same result of it leave the same low halves in their
destinations. -/
theorem xmm_dest_eq_of_instrResult_eq {i i' : Instr} {j : VNum} {s t t' : State} (hsrc : instrSrc i = .reg j)
    (hsrc' : instrSrc i' = .reg j) (hresult : instrResult s (s.xmm j) i = instrResult s (s.xmm j) i')
    (h : exec i s = .next t) (h' : exec i' s = .next t') : t.xmm (instrDest i) = t'.xmm (instrDest i') := by
  rw [xmm_dest_of_exec_reg hsrc h, xmm_dest_of_exec_reg hsrc' h', hresult]

/-! ### The round functions -/

theorem shiftRows_invSubBytes (v : Xmm) : shiftRows (invSubBytes v) = invSubBytes (shiftRows v) := by
  rw [shiftRows_eq, invSubBytes_eq, mapBytes_moveCells _ colRight_lt]

theorem invShiftRows_subBytes (v : Xmm) : invShiftRows (subBytes v) = subBytes (invShiftRows v) := by
  rw [invShiftRows_eq, subBytes_eq, mapBytes_moveCells _ colLeft_lt]

theorem aesImc_xor (a b : Xmm) : aesImc (a ^^^ b) = aesImc a ^^^ aesImc b := by
  unfold aesImc
  rw [invMixColumns_eq]
  exact mulColumns_xor _ a b

theorem aesImc_mixColumns (v : Xmm) : aesImc (mixColumns v) = v := invMixColumns_mixColumns v
theorem mixColumns_aesImc (v : Xmm) : mixColumns (aesImc v) = v := mixColumns_invMixColumns v

/-- A decryption round is a last round without its key, then `InvMixColumns` (R123). -/
theorem aesDec_eq (s k : Xmm) : aesDec s k = aesImc (aesDecLast s 0) ^^^ k := by
  simp [aesDec, aesDecLast, aesImc]

/-- An encryption round is a last round without its key, then `MixColumns` (R142). -/
theorem aesEnc_eq (s k : Xmm) : aesEnc s k = mixColumns (aesEncLast s 0) ^^^ k := by
  simp [aesEnc, aesEncLast]

/-- A last encryption round without a key is undone by a last decryption round (R132). -/
theorem aesDecLast_aesEncLast (a b : Xmm) : aesDecLast (aesEncLast a 0) b = a ^^^ b := by
  have hundo : invSubBytes (invShiftRows (subBytes (shiftRows a))) = a := by
    rw [invShiftRows_subBytes, invShiftRows_shiftRows, invSubBytes_subBytes]
  simp [aesDecLast, aesEncLast, hundo]

/-- A last decryption round without a key is undone by a last encryption round (R132). -/
theorem aesEncLast_aesDecLast (a b : Xmm) : aesEncLast (aesDecLast a 0) b = a ^^^ b := by
  have hundo : subBytes (shiftRows (invSubBytes (invShiftRows a))) = a := by
    rw [shiftRows_invSubBytes, shiftRows_invShiftRows, subBytes_invSubBytes]
  simp [aesDecLast, aesEncLast, hundo]

/-- The key of an encryption round comes off a last round as it went on. -/
theorem aesEncLast_xor_key (s k : Xmm) : aesEncLast s k ^^^ k = aesEncLast s 0 := by
  simp [aesEncLast]

/-! ### The equivalent inverse cipher (R122) -/

/-- One step of the flow: behind a keyless last round, a decryption round with the round's key through `AESIMC` takes an
encryption round off (R122, R162). -/
theorem aesDec_aesEncLast_aesEnc (s k : Xmm) : aesDec (aesEncLast (aesEnc s k) 0) (aesImc k) = aesEncLast s 0 :=
  calc aesDec (aesEncLast (aesEnc s k) 0) (aesImc k)
      = aesImc (aesEnc s k) ^^^ aesImc k := by rw [aesDec_eq, aesDecLast_aesEncLast, xor_zero]
    _ = aesImc (mixColumns (aesEncLast s 0) ^^^ k ^^^ k) := by rw [aesImc_xor _ k, aesEnc_eq]
    _ = aesEncLast s 0 := by rw [xor_cancel_right, aesImc_mixColumns]

/-- The decryption rounds take all the encryption rounds off, the last one first. -/
theorem foldl_aesDec_aesEncLast_foldl_aesEnc (inner : List Xmm) (s : Xmm) :
    ((inner.map aesImc).reverse).foldl aesDec (aesEncLast (inner.foldl aesEnc s) 0) = aesEncLast s 0 := by
  induction inner generalizing s with
  | nil => rfl
  | cons k inner ih =>
    rw [List.foldl_cons, List.map_cons, List.reverse_cons, List.foldl_append, ih]
    exact aesDec_aesEncLast_aesEnc s k

end Sys2Proof.Laws
end

section
/-!
PROOF. The statements of `41_aesdec.md`: the result of the decryption round, the agreement of the two forms, the
identities of the round functions, and the decryption flow.
-/

namespace Sys2Proof.Proofs

open Sys2Proof.Machine Sys2Proof.Laws

/-- Settles O20: the two forms take the state from the destination and from `vvvv`. -/
theorem aesdecResult : Obligations.AesdecResult :=
  ⟨fun _ _ _ _ _ hm hen hlock hop => exec_legacy_of_operandHolds rfl hm hen hlock hop,
   fun _ _ _ _ _ _ hm hen hprefix hl hop => exec_vex_of_operandHolds rfl hm hen hprefix hl rfl hop⟩

/-- Settles O28: the two forms of each operation apply one result function to the same registers. -/
theorem formsAgreeOnLowBits : Obligations.FormsAgreeOnLowBits := by
  intro e e' d j imm s t t'
  have agree {i i' : Instr} := xmm_dest_eq_of_instrResult_eq (i := i) (i' := i') (j := j) (s := s) (t := t) (t' := t')
  exact ⟨agree rfl rfl rfl, agree rfl rfl rfl, agree rfl rfl rfl, agree rfl rfl rfl, agree rfl rfl rfl,
    agree rfl rfl rfl⟩

/-- Settles O55: last rounds undo each other, and the other rounds are last rounds with a column mix. -/
theorem roundIdentities : Obligations.RoundIdentities := by
  intro s k k' a b
  refine ⟨aesDec_eq s k, ?keys, ?decRemoved, aesDecLast_aesEncLast a b, aesEncLast_aesDecLast a b, aesEnc_eq s k,
    ?encWithoutKey, ?encRemoved⟩
  case keys => rw [aesDec, aesDec, xor_interchange, BitVec.xor_self, BitVec.zero_xor]
  case decRemoved =>
    rw [aesDec_eq, xor_cancel_right, mixColumns_aesImc, aesEncLast_aesDecLast, xor_zero]
  case encWithoutKey =>
    rw [aesEnc_eq, aesImc_xor, aesImc_mixColumns, map_zero_of_map_xor aesImc_xor, xor_zero]
  case encRemoved =>
    rw [aesEnc_eq, xor_cancel_right, aesImc_mixColumns, aesDecLast_aesEncLast, xor_zero]

/-- Settles O56: `AESDECLAST` removes the keyless last round that the inner rounds leave, and with it the first key. -/
theorem equivalentInverseCipher : Obligations.EquivalentInverseCipher := by
  intro first last inner block
  rw [aesEncLast_xor_key, foldl_aesDec_aesEncLast_foldl_aesEnc, aesDecLast_aesEncLast, xor_cancel_right]

end Sys2Proof.Proofs
end

section
/-!
PROOF. The statement of `42_aesdeclast.md`: the result of the last decryption round.
-/

namespace Sys2Proof.Proofs

open Sys2Proof.Machine Sys2Proof.Laws

/-- Settles O21: the result of either form is `aesDecLast`, of the destination (R130) and of the `vvvv` register (R131). -/
theorem aesdeclastResult : Obligations.AesdeclastResult := by
  refine ⟨?legacy, ?vex⟩
  case legacy =>
    intro e d src key s hm hen hlock hop
    exact exec_legacy_of_operandHolds (i := .aesdeclast e d src) rfl hm hen hlock hop
  case vex =>
    intro e d a src key s hm hen hprefix hl hop
    exact exec_vex_of_operandHolds (i := .vaesdeclast e d a src) rfl hm hen hprefix hl rfl hop

end Sys2Proof.Proofs
end

section
/-!
PROOF. The statement of `43_aesenc.md`: the result of the encryption round.
-/

namespace Sys2Proof.Proofs

open Sys2Proof.Machine Sys2Proof.Laws

/-- Settles O22: the result of either form is `aesEnc`, of the destination with its upper bits kept (R140) and of the `vvvv`
register with them zeroed (R141). -/
theorem aesencResult : Obligations.AesencResult := by
  refine ⟨?legacy, ?vex⟩
  case legacy =>
    intro e d src key s hm hen hlock hop
    have hresult : instrResult s key (.aesenc e d src) = aesEnc (s.xmm d) key := rfl
    have hnext := exec_legacy_of_operandHolds (i := .aesenc e d src) rfl hm hen hlock hop
    rwa [hresult, aesEnc] at hnext
  case vex =>
    intro e d a src key s hm hen hprefix hl hop
    have hresult : instrResult s key (.vaesenc e d a src) = aesEnc (s.xmm a) key := rfl
    have hnext := exec_vex_of_operandHolds (i := .vaesenc e d a src) rfl hm hen hprefix hl rfl hop
    rwa [hresult, aesEnc] at hnext

end Sys2Proof.Proofs
end

section
/-!
PROOF. The statement of `44_aesenclast.md`: the result of the last encryption round.
-/

namespace Sys2Proof.Proofs

open Sys2Proof.Machine Sys2Proof.Laws

/-- Settles O23: the result of either form is `aesEncLast`, of the destination with its upper bits kept (R150) and of the
`vvvv` register with them zeroed (R151). -/
theorem aesenclastResult : Obligations.AesenclastResult := by
  refine ⟨?legacy, ?vex⟩
  case legacy =>
    intro e d src key s hm hen hlock hop
    have hresult : instrResult s key (.aesenclast e d src) = aesEncLast (s.xmm d) key := rfl
    have hnext := exec_legacy_of_operandHolds (i := .aesenclast e d src) rfl hm hen hlock hop
    rwa [hresult, aesEncLast] at hnext
  case vex =>
    intro e d a src key s hm hen hprefix hl hop
    have hresult : instrResult s key (.vaesenclast e d a src) = aesEncLast (s.xmm a) key := rfl
    have hnext := exec_vex_of_operandHolds (i := .vaesenclast e d a src) rfl hm hen hprefix hl rfl hop
    rwa [hresult, aesEncLast] at hnext

end Sys2Proof.Proofs
end

section
/-!
PROOF. The stored `vvvv` of the two VEX key instructions (`45_aesimc.md` R163, `46_aeskeygenassist.md` R173): what `Check`
makes of it, and where the decoder takes it from.
-/

namespace Sys2Proof.Laws

open Sys2Proof.Machine

/-! ### What `Check` makes of a reserved `vvvv` -/

/-- For an opcode that is no round, every test of `Check(VEX)` up to that of the reserved `vvvv` raises `#UD` (R78, R183). -/
theorem checkVex_of_vvvvBad {s : State} (hm : s.cfg.mode.modelled = true) (e : VexEnc) :
    s.checkVex e false true = some s.ud := by
  simp only [State.checkVex, hm, Bool.not_true, Bool.false_and, Bool.false_eq_true, if_false, if_true, ite_self]

theorem instrCheck_of_badVvvv {s : State} {i : Instr} (hm : s.cfg.mode.modelled = true) (h : badVvvv i = true) :
    instrCheck s i = some s.ud := by
  cases i with
  | vaesimc e vvvv d src => exact (congrArg (s.checkVex e false) h).trans (checkVex_of_vvvvBad hm e)
  | vaeskeygenassist e vvvv d src imm => exact (congrArg (s.checkVex e false) h).trans (checkVex_of_vvvvBad hm e)
  | _ => cases h

/-- A reserved `vvvv` raises `#UD` whatever the other fields and the other causes of `#UD` are (R163, R173). -/
theorem exec_of_badVvvv {s : State} {i : Instr} (hm : s.cfg.mode.modelled = true) (h : badVvvv i = true) :
    exec i s = .fault (.invalidOpcode s.ip) :=
  exec_of_instrCheck (stop := s.ud) (instrCheck_of_badVvvv hm h)

/-! ### Where the decoder takes `vvvv` from -/

/-- What the decoder makes of a VEX string is a VEX row with the field `P2[6:3]` as stored (R71). -/
theorem vexInstrOf_of_decode {m : Mode} {ps : List Prefix} {rexBytes bs t : List Byte} {p1 p2 : Byte} {i : Instr}
    (hrex : rexBytes = [] ∨ ∃ b, isRex b = true ∧ rexBytes = [b])
    (h : decode m (ps.map prefixByte ++ (rexBytes ++ 0xC4 :: p1 :: p2 :: bs)) = .ok (i, t)) :
    ∃ o e d src imm, i = vexInstrOf o e (p2.extractLsb' 3 4) d src imm := by
  obtain ⟨_, hvex⟩ := decodeVex_of_decode hrex h
  obtain ⟨_, _, o, _, ⟨⟩, -, -, -, htail⟩ := decodeVex_eq_ok.1 hvex
  obtain ⟨-, d, src, imm, _, -, -, hrow⟩ := decodeVexTail_eq_ok.1 htail
  exact ⟨o, _, d, src, imm, hrow⟩

section Rows

variable {o : AesOp} {e e' : VexEnc} {vvvv vvvv' : BitVec 4} {d d' : VNum} {src src' : RM} {imm imm' : Byte}

theorem vvvv_eq_of_vaesimc_eq (h : .vaesimc e vvvv d src = vexInstrOf o e' vvvv' d' src' imm') : vvvv = vvvv' := by
  cases o with
  | imc =>
    obtain ⟨-, hvvvv, -⟩ := Instr.vaesimc.inj h
    exact hvvvv
  | _ => cases h

theorem vvvv_eq_of_vaeskeygenassist_eq (h : .vaeskeygenassist e vvvv d src imm = vexInstrOf o e' vvvv' d' src' imm') :
    vvvv = vvvv' := by
  cases o with
  | keygen =>
    obtain ⟨-, hvvvv, -⟩ := Instr.vaeskeygenassist.inj h
    exact hvvvv
  | _ => cases h

end Rows

end Sys2Proof.Laws
end

section
/-!
PROOF. The statements of `45_aesimc.md`: the result of the key transformation, and the reserved `vvvv`.
-/

namespace Sys2Proof.Proofs

open Sys2Proof.Machine Sys2Proof.Laws

/-- Settles O24: the result of either form is `aesImc` of the operand alone, with the destination's upper bits kept (R160)
and zeroed (R161). -/
theorem aesimcResult : Obligations.AesimcResult := by
  refine ⟨?legacy, ?vex⟩
  case legacy =>
    intro e d src val s hm hen hlock hop
    have hresult : instrResult s val (.aesimc e d src) = aesImc val := rfl
    have hnext := exec_legacy_of_operandHolds (i := .aesimc e d src) rfl hm hen hlock hop
    rwa [hresult, aesImc] at hnext
  case vex =>
    intro e d src val s hm hen hprefix hl hop
    have hresult : instrResult s val (.vaesimc e 0b1111 d src) = aesImc val := rfl
    have hnext := exec_vex_of_operandHolds (i := .vaesimc e 0b1111 d src) rfl hm hen hprefix hl rfl hop
    rwa [hresult, aesImc] at hnext

/-- Settles O34: `Check` raises `#UD` for the two rows that reserve `vvvv`, which the decoder fills from `P2[6:3]`. -/
theorem reservedVvvv : Obligations.ReservedVvvv := by
  refine ⟨?executing, ?decoding⟩
  case executing =>
    intro e vvvv d src imm s hm hvvvv
    have hbad : (vvvv != 0b1111#4) = true := bne_iff_ne.2 hvvvv
    exact ⟨exec_of_badVvvv hm hbad, exec_of_badVvvv hm hbad⟩
  case decoding =>
    intro m ps rex p1 p2 op tail e vvvv d src imm r hrex
    refine ⟨fun h => ?imc, fun h => ?keygen⟩
    case imc =>
      obtain ⟨_, _, _, _, _, hrow⟩ := vexInstrOf_of_decode hrex h
      exact vvvv_eq_of_vaesimc_eq hrow
    case keygen =>
      obtain ⟨_, _, _, _, _, hrow⟩ := vexInstrOf_of_decode hrex h
      exact vvvv_eq_of_vaeskeygenassist_eq hrow

end Sys2Proof.Proofs
end

section
/-!
PROOF. The answer of `Check` as one chain of causes (`60_exceptions.md` R183 to R187), the causes as bits of the
configuration, and the control registers that the VEX forms do not consult.
-/

namespace Sys2Proof.Laws

open Sys2Proof.Machine

/-! ### `Check` as a chain of causes (R183) -/

/-- The causes of `#UD` that lie in the configuration, for each format (R184, R185). -/
def configCause (c : Config) : Form → Bool
  | .legacy => !cpuidAes c || cr0Em c || !cr4Osfxsr c
  | .vex => !cpuidAes c || !cpuidAvx c || !cr4Osxsave c || !xcr0Sse c || !xcr0Avx c

theorem udCause_eq (c : Config) (i : Instr) :
    udCause c i = (configCause c (instrForm i) || badPrefix i || instrL i || badVvvv i) := by
  unfold udCause
  cases instrForm i <;> rfl

theorem instrCheck_eq_checkLegacy {i : Instr} (hf : instrForm i = .legacy) :
    ∃ e : LegEnc, badPrefix i = e.prefixes.contains .lock ∧ ∀ s, instrCheck s i = s.checkLegacy e := by
  cases i with
  | aesdec e d src => exact ⟨e, rfl, fun _ => rfl⟩
  | aesdeclast e d src => exact ⟨e, rfl, fun _ => rfl⟩
  | aesenc e d src => exact ⟨e, rfl, fun _ => rfl⟩
  | aesenclast e d src => exact ⟨e, rfl, fun _ => rfl⟩
  | aesimc e d src => exact ⟨e, rfl, fun _ => rfl⟩
  | aeskeygenassist e d src imm => exact ⟨e, rfl, fun _ => rfl⟩
  | _ => cases hf

theorem instrCheck_eq_checkVex {i : Instr} (hf : instrForm i = .vex) :
    ∃ e : VexEnc, badPrefix i = forbiddenPrefix e ∧ instrL i = e.l ∧
      ∀ s, instrCheck s i = s.checkVex e (instrRoundVex i) (badVvvv i) := by
  cases i with
  | vaesdec e d a src => exact ⟨e, rfl, rfl, fun _ => rfl⟩
  | vaesdeclast e d a src => exact ⟨e, rfl, rfl, fun _ => rfl⟩
  | vaesenc e d a src => exact ⟨e, rfl, rfl, fun _ => rfl⟩
  | vaesenclast e d a src => exact ⟨e, rfl, rfl, fun _ => rfl⟩
  | vaesimc e vvvv d src => exact ⟨e, rfl, rfl, fun _ => rfl⟩
  | vaeskeygenassist e vvvv d src imm => exact ⟨e, rfl, rfl, fun _ => rfl⟩
  | _ => cases hf

/-- `Check` in a mode of scope: `#UD` from the configuration or forbidden prefixes, the refusal of R79, `#UD` from `VEX.L` or
`VEX.vvvv`, and `#NM` last (R183): the tests of either format are those that apply to it. -/
theorem instrCheck_eq {s : State} (hm : s.cfg.mode.modelled = true) (i : Instr) :
    instrCheck s i =
      if configCause s.cfg (instrForm i) || badPrefix i then some s.ud
      else if wide256 s.cfg i then some (.refuse .vaes256)
      else if instrL i || badVvvv i then some s.ud
      else if cr0Ts s.cfg then some s.nm
      else none := by
  cases hf : instrForm i with
  | legacy =>
    obtain ⟨e, hprefix, hcheck⟩ := instrCheck_eq_checkLegacy hf
    obtain ⟨hl, hvvvv⟩ := instrL_badVvvv_of_legacy hf
    rw [hcheck, State.checkLegacy, hm, hprefix, wide256, hl, hvvvv, configCause]
    split_ifs <;> simp_all
  | vex =>
    obtain ⟨e, hprefix, hl, hcheck⟩ := instrCheck_eq_checkVex hf
    rw [hcheck, State.checkVex, hm, hprefix, wide256, hl, configCause]
    split_ifs <;> simp_all

/-- A cause in the configuration or among the prefixes raises `#UD`, on a part with 256-bit forms as well (R184 to R186). -/
theorem exec_of_earlyCause {s : State} {i : Instr} (hm : s.cfg.mode.modelled = true)
    (h : (configCause s.cfg (instrForm i) || badPrefix i) = true) : exec i s = .fault (.invalidOpcode s.ip) :=
  exec_of_instrCheck (stop := s.ud) ((instrCheck_eq hm i).trans (if_pos h))

/-- Every cause of `#UD` raises it, the refused 256-bit forms apart (R79, R184 to R186). -/
theorem exec_of_udCause {s : State} {i : Instr} (hm : s.cfg.mode.modelled = true) (hwide : wide256 s.cfg i = false)
    (h : udCause s.cfg i = true) : exec i s = .fault (.invalidOpcode s.ip) := by
  rw [udCause_eq, Bool.or_assoc _ (instrL i), Bool.or_eq_true] at h
  obtain hearly | hlate := h
  · exact exec_of_earlyCause hm hearly
  · refine exec_of_instrCheck (stop := s.ud) ?_
    rw [instrCheck_eq hm, hwide, hlate]
    simp

/-- Without a cause of `#UD`, `CR0.TS = 1` raises `#NM` (R187). -/
theorem exec_of_cr0Ts {s : State} {i : Instr} (hm : s.cfg.mode.modelled = true) (hud : udCause s.cfg i = false)
    (hts : cr0Ts s.cfg = true) : exec i s = .fault (.deviceNotAvailable s.ip) := by
  rw [udCause_eq] at hud
  simp only [Bool.or_eq_false_iff] at hud
  obtain ⟨⟨⟨hconfig, hprefix⟩, hl⟩, hvvvv⟩ := hud
  refine exec_of_instrCheck (stop := s.nm) ?_
  rw [instrCheck_eq hm, hconfig, hprefix, wide256, hl, hvvvv, hts]
  simp

/-! ### The causes as bits (R29) -/

theorem configCause_legacy_iff {c : Config} : configCause c .legacy = true ↔
    c.cpuid1Ecx.getLsbD 25 = false ∨ c.cr0.getLsbD 2 = true ∨ c.cr4.getLsbD 9 = false := by
  simp [configCause, cr0Em, cr4Osfxsr, or_assoc]

/-- `XCR0[2:1] = 11b` says that both bits are set. -/
theorem xcr0_field_eq_iff (c : Config) : c.xcr0.extractLsb' 1 2 = 0b11#2 ↔ xcr0Sse c = true ∧ xcr0Avx c = true := by
  simp only [BitVec.eq_of_getLsbD_eq_iff, Nat.forall_lt_succ_right]
  simp [xcr0Sse, xcr0Avx]

theorem configCause_vex_iff {c : Config} : configCause c .vex = true ↔
    c.cpuid1Ecx.getLsbD 25 = false ∨ c.cpuid1Ecx.getLsbD 28 = false ∨ c.cr4.getLsbD 18 = false ∨
      c.xcr0.extractLsb' 1 2 ≠ 0b11#2 := by
  rw [ne_eq, xcr0_field_eq_iff, not_and_or]
  simp [configCause, cr4Osxsave, or_assoc]

/-! ### Other control registers (R185) -/

/-- The state with other control registers. -/
def withControl (c0 c4 : Word) (s : State) : State := { s with cfg := { s.cfg with cr0 := c0, cr4 := c4 } }

section Control

variable {c0 c4 : Word} {s : State}

/-- Of the control registers `Check(VEX)` reads `CR0.TS` and `CR4.OSXSAVE` only. -/
theorem checkVex_withControl (hts : c0.getLsbD 3 = s.cfg.cr0.getLsbD 3) (hxsave : c4.getLsbD 18 = s.cfg.cr4.getLsbD 18)
    (e : VexEnc) (round bad : Bool) : (withControl c0 c4 s).checkVex e round bad = s.checkVex e round bad := by
  have hts' : cr0Ts (withControl c0 c4 s).cfg = cr0Ts s.cfg := hts
  have hxsave' : cr4Osxsave (withControl c0 c4 s).cfg = cr4Osxsave s.cfg := hxsave
  simp only [State.checkVex, hts', hxsave', cpuidAes_eq, cpuidAvx_eq]
  rfl

theorem instrOperand_withControl (i : Instr) : instrOperand (withControl c0 c4 s) i = instrOperand s i := by
  unfold instrOperand
  cases instrSrc i <;> rfl

theorem instrNext_withControl (val : Xmm) (i : Instr) : instrNext (withControl c0 c4 s) val i =
    { instrNext s val i with cfg := (withControl c0 c4 s).cfg } := by
  cases i <;> rfl

/-- The outcome of a VEX instruction stays under other control registers with these two bits, `CR0.EM` and `CR4.OSFXSR`
among the rest. -/
theorem exec_withControl {i : Instr} (hf : instrForm i = .vex) (hts : c0.getLsbD 3 = s.cfg.cr0.getLsbD 3)
    (hxsave : c4.getLsbD 18 = s.cfg.cr4.getLsbD 18) :
    exec i (withControl c0 c4 s) = mapOutcome (fun t => { t with cfg := (withControl c0 c4 s).cfg }) (exec i s) := by
  obtain ⟨e, -, -, hcheck⟩ := instrCheck_eq_checkVex hf
  rw [exec_eq_inOrder, exec_eq_inOrder, mapOutcome_inOrder, hcheck, hcheck, checkVex_withControl hts hxsave,
    instrOperand_withControl]
  simp only [instrNext_withControl]

end Control

end Sys2Proof.Laws
end

section
/-!
PROOF. The stops of an instruction (`60_exceptions.md`): where it stops, what that depends on (R192), what a fault records
(R182), and how a run ends at one (R180, R181).
-/

namespace Sys2Proof.Laws

open Sys2Proof.Machine

/-! ### Where an instruction stops -/

/-- The instruction stops in `Check`, or `Check` lets it through and the operand read stops it (R183, R193). -/
def StopsWith (s : State) (i : Instr) (stop : Stop) : Prop :=
  instrCheck s i = some stop ∨ instrCheck s i = none ∧ instrOperand s i = .error stop

theorem outcome_inj {a b : Stop} : a.outcome = b.outcome ↔ a = b := by
  cases a <;> cases b <;> simp [Stop.outcome]

theorem exec_eq_outcome_iff {i : Instr} {s : State} {stop : Stop} : exec i s = stop.outcome ↔ StopsWith s i stop := by
  rw [exec_eq_inOrder, StopsWith]
  cases instrCheck s i with
  | some st => simp [outcome_inj]
  | none =>
    cases instrOperand s i with
    | error st => simp [outcome_inj]
    | ok val => cases stop <;> simp [Stop.outcome]

theorem exec_fault_iff {i : Instr} {s : State} {f : Fault} : exec i s = .fault f ↔ StopsWith s i (.fault f) :=
  exec_eq_outcome_iff (stop := .fault f)

theorem exec_refused_iff {i : Instr} {s : State} {r : Refusal} : exec i s = .refused r ↔ StopsWith s i (.refuse r) :=
  exec_eq_outcome_iff (stop := .refuse r)

/-- An instruction completes exactly when nothing stops it. -/
theorem exec_completes_iff {i : Instr} {s : State} : (∃ t, exec i s = .next t) ↔ ∀ stop, ¬ StopsWith s i stop := by
  simp only [← exec_eq_outcome_iff]
  cases exec i s with
  | next t => exact iff_of_true ⟨t, rfl⟩ fun stop h => by cases stop <;> cases h
  | fault f => exact iff_of_false (fun ⟨_, h⟩ => by cases h) fun h => h (.fault f) rfl
  | refused r => exact iff_of_false (fun ⟨_, h⟩ => by cases h) fun h => h (.refuse r) rfl

/-! ### What the stops depend on (R192) -/

theorem src2_mem (s : State) (f : Form) (ps : List Prefix) (len : Nat) (a : Addr) :
    s.src2 f ps len (.mem a) = s.memRead f (memOperand s.cfg.mode ps a).seg (operandAddress s ps len a) := rfl

section Data

variable {s s' : State} (hcfg : s'.cfg = s.cfg) (hip : s'.ip = s.ip)
include hcfg hip

theorem instrCheck_congr (i : Instr) : instrCheck s' i = instrCheck s i := by
  cases hf : instrForm i with
  | legacy =>
    obtain ⟨e, -, hcheck⟩ := instrCheck_eq_checkLegacy hf
    simp only [hcheck, State.checkLegacy, State.ud, State.nm, hcfg, hip]
  | vex =>
    obtain ⟨e, -, -, hcheck⟩ := instrCheck_eq_checkVex hf
    simp only [hcheck, State.checkVex, State.ud, State.nm, hcfg, hip]

variable (hfree : s'.freeCounter = s.freeCounter)
include hfree

theorem memRead_error_congr (f : Form) (seg : Seg) (linear : Word) (stop : Stop) :
    s'.memRead f seg linear = .error stop ↔ s.memRead f seg linear = .error stop := by
  have haddress : s'.addressCheck f seg linear = s.addressCheck f seg linear := by
    simp only [State.addressCheck, State.gp, State.ss, hcfg, hip, hfree]
  have htranslation : s'.translationCheck linear = s.translationCheck linear := by
    simp only [State.translationCheck, hcfg, hip, hfree]
  rw [memRead_error, memRead_error, haddress, htranslation]

/-- The operand read stops at the same check wherever the operand has the same address. -/
theorem instrOperand_error_congr {i : Instr}
    (haddr : ∀ a, instrSrc i = .mem a →
      operandAddress s' (instrPrefixes i) i.len a = operandAddress s (instrPrefixes i) i.len a) (stop : Stop) :
    instrOperand s' i = .error stop ↔ instrOperand s i = .error stop := by
  unfold instrOperand
  cases hsrc : instrSrc i with
  | reg j => exact iff_of_false (fun h => by cases h) (fun h => by cases h)
  | mem a =>
    rw [src2_mem, src2_mem, hcfg, haddr a hsrc]
    exact memRead_error_congr hcfg hip hfree ..

theorem stopsWith_congr {i : Instr}
    (haddr : ∀ a, instrSrc i = .mem a →
      operandAddress s' (instrPrefixes i) i.len a = operandAddress s (instrPrefixes i) i.len a) (stop : Stop) :
    StopsWith s' i stop ↔ StopsWith s i stop := by
  rw [StopsWith, StopsWith, instrCheck_congr hcfg hip, instrOperand_error_congr hcfg hip hfree haddr]

end Data

/-! ### What the faults record (R182) -/

section Faults

variable {s : State} {i : Instr} {f : Fault}

/-- `Check` raises `#UD` and `#NM` only (R183). -/
theorem fault_of_instrCheck (hm : s.cfg.mode.modelled = true) (h : instrCheck s i = some (.fault f)) :
    f = .invalidOpcode s.ip ∨ f = .deviceNotAvailable s.ip := by
  rw [instrCheck_eq hm] at h
  split_ifs at h <;> cases h
  · exact .inl rfl
  · exact .inl rfl
  · exact .inr rfl

/-- The address checks raise `#SS(0)` and `#GP(0)` only (R189, R190). -/
theorem fault_of_addressCheck {form : Form} {seg : Seg} {linear : Word}
    (h : s.addressCheck form seg linear = some (.fault f)) : f = .stackFault s.ip ∨ f = .generalProtection s.ip := by
  have hgp (h : some s.gp = some (.fault f)) : f = .generalProtection s.ip := by cases h; rfl
  have hss (h : some s.ss = some (.fault f)) : f = .stackFault s.ip := by cases h; rfl
  unfold State.addressCheck at h
  split at h
  · cases h
  · exact .inr (hgp h)
  all_goals
    split_ifs at h
    · exact .inl (hss h)
    · exact .inr (hgp h)

/-- The translation of an operand raises `#PF` only (R191). -/
theorem fault_of_translationCheck {linear : Word} (h : s.translationCheck linear = some (.fault f)) :
    ∃ code addr, f = .pageFault s.ip code addr := by
  unfold State.translationCheck at h
  split at h
  · cases h
    exact ⟨_, _, rfl⟩
  · split at h <;> cases h

theorem fault_of_instrOperand (h : instrOperand s i = .error (.fault f)) :
    f = .stackFault s.ip ∨ f = .generalProtection s.ip ∨ ∃ code addr, f = .pageFault s.ip code addr := by
  unfold instrOperand at h
  cases hsrc : instrSrc i with
  | reg j => rw [hsrc] at h; cases h
  | mem a =>
    rw [hsrc, src2_mem] at h
    obtain haddress | ⟨-, htranslation⟩ := memRead_error.1 h
    · exact (fault_of_addressCheck haddress).imp_right .inl
    · exact .inr (.inr (fault_of_translationCheck htranslation))

/-- An instruction raises the five faults of R182 and no other, at its own address. -/
theorem exec_fault_cases (h : exec i s = .fault f) :
    f = .invalidOpcode s.ip ∨ f = .deviceNotAvailable s.ip ∨ f = .stackFault s.ip ∨ f = .generalProtection s.ip ∨
      ∃ code addr, f = .pageFault s.ip code addr := by
  have hm : s.cfg.mode.modelled = true := by
    by_contra hm
    rw [exec_of_not_modelled (Bool.not_eq_true _ ▸ hm)] at h
    cases h
  obtain hcheck | ⟨-, hoperand⟩ := exec_fault_iff.1 h
  · exact (fault_of_instrCheck hm hcheck).imp_right .inl
  · exact .inr (.inr (fault_of_instrOperand hoperand))

theorem exec_fault_at (h : exec i s = .fault f) : f.at = s.ip := by
  obtain rfl | rfl | rfl | rfl | ⟨code, addr, rfl⟩ := exec_fault_cases h <;> rfl

/-- The fetch of a byte raises `#PF` only (R191). -/
theorem fault_of_fetchBytes {c : Config} {ip : Word} (n : Nat) {a : Word} {bs : List Byte}
    (h : (fetchBytes c ip n a bs).2 = .stop (.fault f)) : ∃ code addr, f = .pageFault ip code addr := by
  induction n generalizing a bs with
  | zero => cases h
  | succ n ih =>
    cases bs with
    | nil => cases h
    | cons b bs =>
      unfold fetchBytes at h
      split at h
      · exact ih h
      · cases h
        exact ⟨_, _, rfl⟩
      · cases h

/-- The fetch raises `#GP(0)` past 15 bytes, and `#PF` (R189 c, R191). -/
theorem fault_of_decodeWindow (h : s.decodeWindow = .error (.fault f)) :
    f = .generalProtection s.ip ∨ ∃ code addr, f = .pageFault s.ip code addr := by
  unfold State.decodeWindow at h
  split at h
  · cases h
  · split at h
    · cases h
      exact .inl rfl
    · cases h
    · next hend =>
      cases h
      exact .inr (fault_of_fetchBytes 15 hend)
  · cases h

theorem fault_of_fetchInstr (h : s.fetchInstr = .error (.fault f)) :
    f = .generalProtection s.ip ∨ ∃ code addr, f = .pageFault s.ip code addr := by
  unfold State.fetchInstr at h
  split_ifs at h
  case neg => exact fault_of_decodeWindow h
  all_goals cases h

/-- Where no fault is recorded yet, a step that faults does so in the fetch or in the instruction. -/
theorem step_fault (hfault : s.faultRecord = none) (h : step s = .fault f) :
    s.fetchInstr = .error (.fault f) ∨ ∃ i, exec i s = .fault f := by
  simp only [step, hfault] at h
  split at h
  · next stop hfetch =>
    obtain rfl : stop = .fault f := outcome_inj.1 h
    exact .inl hfetch
  · next i hfetch => exact .inr ⟨i, h⟩

theorem step_fault_at (hfault : s.faultRecord = none) (h : step s = .fault f) : f.at = s.ip := by
  obtain hfetch | ⟨i, hexec⟩ := step_fault hfault h
  · obtain rfl | ⟨code, addr, rfl⟩ := fault_of_fetchInstr hfetch <;> rfl
  · exact exec_fault_at hexec

end Faults

/-! ### Runs that fault -/

/-- A state with a recorded fault takes no further step (R181, I21). -/
theorem step_recordFault (s : State) (f : Fault) : step (s.recordFault f) = .fault f := rfl

/-- A faulted run went on to a state whose step faults, and recorded the fault there (R180, R181). -/
theorem run_faulted {k : Nat} {s t : State} {f : Fault} (h : run k s = .faulted t f) :
    ∃ j u, j < k ∧ run j s = .running u ∧ step u = .fault f ∧ t = u.recordFault f := by
  induction k generalizing s with
  | zero => cases h
  | succ k ih =>
    unfold run at h
    split at h
    · next s' hstep =>
      obtain ⟨j, u, hj, hrun, hfault⟩ := ih h
      exact ⟨j + 1, u, Nat.succ_lt_succ hj, by rw [run, hstep]; exact hrun, hfault⟩
    · next g hstep =>
      cases h
      exact ⟨0, s, Nat.succ_pos k, rfl, hstep, rfl⟩
    · split_ifs at h

end Sys2Proof.Laws
end

section
/-!
PROOF. The statements of `60_exceptions.md`, and the enabling sequence of `70_reset_and_hazards.md` R211 that they presuppose.
-/

namespace Sys2Proof.Proofs

open Sys2Proof.Machine Sys2Proof.Laws

/-! ### Faulted runs (R180, R181) -/

/-- A run that goes on has recorded no fault, if none was recorded before it. -/
theorem run_running_faultRecord {k : Nat} {s t : State} (hs : s.faultRecord = none) (h : run k s = .running t) :
    t.faultRecord = none := by
  induction k generalizing s with
  | zero =>
    cases h
    exact hs
  | succ k ih =>
    unfold run at h
    split at h
    · next u hstep =>
      obtain ⟨-, -, -, -, -, hfault, -⟩ := stepFrame s u hstep
      exact ih (hfault.trans hs) h
    · cases h
    · split_ifs at h

/-- Settles O18: no fault was recorded where the run still went on, so the step there faults by its own instruction. -/
theorem faultedRunIsRecorded : Obligations.FaultedRunIsRecorded := by
  intro s t k f hs h
  obtain ⟨j, u, hj, hrun, hstep, rfl⟩ := run_faulted h
  have hat : f.at = u.ip := step_fault_at (run_running_faultRecord hs hrun) hstep
  exact ⟨hat, rfl, step_recordFault u f, j, u, hj, hrun, hstep, rfl⟩

/-! ### The causes of `#UD` and `#NM` (R184 to R187) -/

/-- Settles O30: the three causes lie in the configuration, which `Check` tests first. -/
theorem legacyInvalidOpcode : Obligations.LegacyInvalidOpcode := by
  intro i s hf hm hcause
  refine exec_of_earlyCause hm ?_
  rw [hf, configCause_legacy_iff.2 hcause, Bool.true_or]

/-- Settles O31: the causes lie in the configuration, a mode out of scope is refused before them, and `Check(VEX)` reads two
bits of the control registers. -/
theorem vexInvalidOpcode : Obligations.VexInvalidOpcode := by
  intro i s hf
  refine ⟨fun hm hcause => ?cause, fun hm => exec_of_not_modelled hm i, fun c0 c4 hts hxsave => ?control⟩
  case cause =>
    refine exec_of_earlyCause hm ?_
    rw [hf, configCause_vex_iff.2 hcause, Bool.true_or]
  case control => exact exec_withControl hf hts hxsave

/-- Settles O32: forbidden prefixes count before `VEX.L` and the refusal of R79, and a reserved `vvvv` is of the rows that
R79 leaves alone. -/
theorem encodingInvalidOpcode : Obligations.EncodingInvalidOpcode := by
  intro i s hm
  refine ⟨fun hbad => ?badPrefix, fun hl hwide => ?length, fun hvvvv => exec_of_badVvvv hm hvvvv⟩
  case badPrefix => exact exec_of_earlyCause hm (by rw [hbad, Bool.or_true])
  case length => exact exec_of_udCause hm hwide (by rw [udCause_eq, hl, Bool.or_true, Bool.true_or])

/-- Settles O35: `CR0.TS` is the last test of `Check`. -/
theorem deviceNotAvailable : Obligations.DeviceNotAvailable :=
  fun _ _ hm hts => ⟨fun hud => exec_of_cr0Ts hm hud hts, fun hud hwide => exec_of_udCause hm hwide hud⟩

/-! ### What faults record and depend on (R182, R192) -/

/-- Settles O40: the vector and the error code are those of the five faults that an instruction can raise. -/
theorem faultRecordValues : Obligations.FaultRecordValues := by
  refine ⟨fun i s f h => ⟨exec_fault_at h, ?values⟩, fun s f hfault h => step_fault_at hfault h⟩
  case values =>
    obtain rfl | rfl | rfl | rfl | ⟨code, addr, rfl⟩ := exec_fault_cases h
    · exact .inl ⟨rfl, rfl, rfl⟩
    · exact .inr (.inl ⟨rfl, rfl, rfl⟩)
    · exact .inr (.inr (.inl ⟨rfl, rfl, rfl⟩))
    · exact .inr (.inr (.inr (.inl ⟨rfl, rfl, rfl⟩)))
    · exact .inr (.inr (.inr (.inr ⟨code, addr, rfl, rfl, rfl⟩)))

/-- Settles O41: each outcome is told by the stops, and the two states have the same stops. -/
theorem faultsIndependentOfData : Obligations.FaultsIndependentOfData := by
  intro i s s' hcfg hip hfree haddr
  have hstops := stopsWith_congr hcfg hip hfree haddr
  refine ⟨fun f => ?fault, fun r => ?refused, ?completes⟩
  case fault => rw [exec_fault_iff, exec_fault_iff, hstops]
  case refused => rw [exec_refused_iff, exec_refused_iff, hstops]
  case completes => simp only [exec_completes_iff, hstops]

/-! ### A page fault on fetch (R191, R193) -/

/-- The window ends before the first byte whose translation fails, with its page fault. -/
theorem window_of_pageFault {s : State} {before front after : List Byte} {b : Byte} {code : BitVec 32}
    (htext : s.cfg.program.text = before ++ (front ++ b :: after)) (hoffset : s.textOffset = before.length)
    (hfront : front.length < 15)
    (hloc : ∀ k < front.length, ∃ p, translate s.cfg .fetch (s.ip + BitVec.ofNat 64 k) = .location p)
    (hfail : translate s.cfg .fetch (s.ip + BitVec.ofNat 64 front.length) = .pageFault code) :
    s.window = (front, .stop (.fault (.pageFault s.ip code (s.ip + BitVec.ofNat 64 front.length)))) := by
  obtain ⟨n, hn⟩ : ∃ n, 15 = front.length + (n + 1) := ⟨14 - front.length, by omega⟩
  rw [State.window, hoffset, htext, List.drop_left, hn, fetchBytes_append _ _ _ _ hloc]
  simp [fetchBytes, hfail]

/-- Settles O12: the window holds a proper beginning of the encoding, which the decoder reports as cut short. -/
theorem fetchPageFault : Obligations.FetchPageFault := by
  intro s i before after k code hfault hwf hlen hk htext hoffset hplace hloc hfail
  obtain ⟨hencode, -⟩ := encodedLengthBounds s.cfg.mode i hwf
  have hoffset' : s.textOffset = before.length := hoffset
  have htake : ((encode i).take k).length = k := by rw [List.length_take]; omega
  have hsplit : encode i = (encode i).take k ++ (encode i)[k] :: (encode i).drop (k + 1) := by
    rw [← List.drop_eq_getElem_cons, List.take_append_drop]
  have htext' : s.cfg.program.text =
      before ++ ((encode i).take k ++ (encode i)[k] :: ((encode i).drop (k + 1) ++ after)) := by
    rw [htext]
    nth_rw 1 [hsplit]
    rw [List.append_assoc, List.cons_append]
  have hwindow := window_of_pageFault htext' hoffset' (by rwa [htake]) (by rwa [htake]) (by rwa [htake])
  rw [htake] at hwindow
  have hdecode : s.decodeWindow = .error (.fault (.pageFault s.ip code (s.ip + BitVec.ofNat 64 k))) := by
    rw [State.decodeWindow, hwindow, encodingIsPrefixFree s.cfg.mode i k hwf hlen]
  have hm : s.cfg.mode.modelled = true := (decode_eq_ok.1 (decode_encode hwf [])).1
  have hip : s.textOffset < s.cfg.program.text.length := by
    rw [hoffset', htext, List.length_append, List.length_append]
    omega
  simp only [step, hfault, fetchInstr_eq_decodeWindow hm hip hplace, hdecode]
  rfl

/-! ### The enabling sequence (R211) -/

theorem boot_cpuid1Ecx (s : State) : s.boot.cfg.cpuid1Ecx = s.cfg.cpuid1Ecx := rfl

/-- The bits of the control registers that the sequence clears and sets (R211 items 3 and 4). -/
theorem boot_controlBits (s : State) : cr0Em s.boot.cfg = false ∧ cr0Ts s.boot.cfg = false ∧
    cr4Osfxsr s.boot.cfg = true ∧ cr4Osxsave s.boot.cfg = true ∧ xcr0Sse s.boot.cfg = true ∧
    xcr0Avx s.boot.cfg = true := by
  simp [cr0Em, cr0Ts, cr4Osfxsr, cr4Osxsave, xcr0Sse, xcr0Avx, State.boot]

theorem boot_xcr0_field (s : State) : s.boot.cfg.xcr0.extractLsb' 0 3 = 0b111#3 := by
  have hones : (7 : Word).extractLsb' 0 3 = BitVec.allOnes 3 := rfl
  have hxcr0 : s.boot.cfg.xcr0 = s.cfg.xcr0 ||| 7 := rfl
  rw [hxcr0, BitVec.extractLsb'_or, hones, BitVec.or_allOnes]
  rfl

/-- Settles O59: the bits that the premises and the sequence give are those that both forms ask for. -/
theorem bootEnables : Obligations.BootEnables := by
  refine ⟨fun c => ⟨cpuidEcx_getLsbD c 27, fun k hk => ?otherBits⟩, fun s haes havx => ?_⟩
  case otherBits => rw [cpuidEcx_getLsbD, if_neg hk]
  obtain ⟨hem, hts, hfxsr, hxsave, hsse, hxavx⟩ := boot_controlBits s
  refine ⟨rfl, ?legacy, ?vex, ?findsLegacy, ?findsVex, boot_xcr0_field s⟩
  case legacy => simp [enabledLegacy, boot_cpuid1Ecx, haes, hem, hts, hfxsr]
  case vex => simp [enabledVex, boot_cpuid1Ecx, haes, havx, hts, hxsave, hsse, hxavx]
  case findsLegacy => simp [cpuidFinds, boot_cpuid1Ecx, haes]
  case findsVex => simp [cpuidFinds, boot_cpuid1Ecx, haes, havx, hxsave]

end Sys2Proof.Proofs
end

section
/-!
PROOF. The refusals of an instruction and of the fetch, where the end of a run is reported
(`70_reset_and_hazards.md` R219 b), and the state in which a final run stands.
-/

namespace Sys2Proof.Laws

open Sys2Proof.Machine

/-! ### What an instruction refuses -/

section Refusals

variable {s : State} {i : Instr} {r : Refusal}

/-- In a mode of scope `Check` refuses only the 256-bit forms (R79). -/
theorem refusal_of_instrCheck (hm : s.cfg.mode.modelled = true) (h : instrCheck s i = some (.refuse r)) :
    r = .vaes256 := by
  rw [instrCheck_eq hm] at h
  split_ifs at h <;> cases h
  rfl

/-- The address checks raise faults and refuse nothing (R45, R189, R190). -/
theorem addressCheck_ne_refuse (form : Form) (seg : Seg) (linear : Word) :
    s.addressCheck form seg linear ≠ some (.refuse r) := by
  intro h
  unfold State.addressCheck at h
  split at h
  · cases h
  · cases h
  all_goals split_ifs at h <;> cases h

/-- The translation of an operand refuses only a device (R48, I20). -/
theorem refusal_of_translationCheck {linear : Word} (h : s.translationCheck linear = some (.refuse r)) :
    ∃ a, r = .device .read a := by
  unfold State.translationCheck at h
  split at h
  · cases h
  · split at h
    · next a _ _ =>
      cases h
      exact ⟨a, rfl⟩
    · cases h

theorem refusal_of_instrOperand (h : instrOperand s i = .error (.refuse r)) : ∃ a, r = .device .read a := by
  unfold instrOperand at h
  cases hsrc : instrSrc i with
  | reg j => rw [hsrc] at h; cases h
  | mem a =>
    rw [hsrc, src2_mem] at h
    obtain haddress | ⟨-, htranslation⟩ := memRead_error.1 h
    · exact (addressCheck_ne_refuse _ _ _ haddress).elim
    · exact refusal_of_translationCheck htranslation

/-- An instruction is refused for its mode, as a 256-bit form, or for a device, and for nothing else. -/
theorem exec_refused_cases (h : exec i s = .refused r) :
    r = .modeNotInScope s.cfg.mode ∨ r = .vaes256 ∨ ∃ a, r = .device .read a := by
  cases hm : s.cfg.mode.modelled with
  | false =>
    rw [exec_of_not_modelled hm] at h
    cases h
    exact .inl rfl
  | true =>
    obtain hcheck | ⟨-, hoperand⟩ := exec_refused_iff.1 h
    · exact .inr (.inl (refusal_of_instrCheck hm hcheck))
    · exact .inr (.inr (refusal_of_instrOperand hoperand))

/-! ### What the fetch refuses -/

/-- The fetch of a byte refuses only a device (R48, log 22). -/
theorem refusal_of_fetchBytes {c : Config} {ip : Word} (n : Nat) {a : Word} {bs : List Byte}
    (h : (fetchBytes c ip n a bs).2 = .stop (.refuse r)) : ∃ b, r = .device .fetch b := by
  induction n generalizing a bs with
  | zero => cases h
  | succ n ih =>
    cases bs with
    | nil => cases h
    | cons b bs =>
      unfold fetchBytes at h
      split at h
      · exact ih h
      · cases h
      · cases h
        exact ⟨a, rfl⟩

/-- The bytes at `ip` are refused as undecodable or for a device (R80, R48). -/
theorem refusal_of_decodeWindow (h : s.decodeWindow = .error (.refuse r)) :
    (∃ e, r = .undecodable e) ∨ ∃ a, r = .device .fetch a := by
  unfold State.decodeWindow at h
  split at h
  · cases h
  · split at h
    · cases h
    · cases h
      exact .inl ⟨_, rfl⟩
    · next hend =>
      cases h
      exact .inr (refusal_of_fetchBytes 15 hend)
  · cases h
    exact .inl ⟨_, rfl⟩

/-! ### Where the end of a run is reported (R219 b) -/

/-- The fetch reports the end of the run exactly at the end address, in a mode of scope. -/
theorem fetchInstr_endOfRun_iff : s.fetchInstr = .error (.refuse .endOfRun) ↔
    s.cfg.mode.modelled = true ∧ s.textOffset = s.cfg.program.text.length := by
  constructor
  · intro h
    unfold State.fetchInstr at h
    split_ifs at h with hm hend
    · cases h
    · exact ⟨by simpa using hm, hend⟩
    · cases h
    · cases h
    · obtain ⟨_, hr⟩ | ⟨_, hr⟩ := refusal_of_decodeWindow h <;> cases hr
  · rintro ⟨hm, hend⟩
    simp [State.fetchInstr, hm, hend]

/-- No instruction reports the end of the run, so a step does only where the fetch does. -/
theorem step_endOfRun_iff : step s = .refused .endOfRun ↔
    s.faultRecord = none ∧ s.cfg.mode.modelled = true ∧ s.textOffset = s.cfg.program.text.length := by
  rw [← fetchInstr_endOfRun_iff]
  unfold step
  cases hfault : s.faultRecord with
  | some f => exact iff_of_false (fun h => by cases h) (fun ⟨h, _⟩ => by cases h)
  | none =>
    cases hfetch : s.fetchInstr with
    | error stop =>
      simp only [true_and, Except.error.injEq]
      exact outcome_inj (b := .refuse .endOfRun)
    | ok i =>
      refine iff_of_false (fun h => ?instruction) (fun ⟨_, h⟩ => by cases h)
      case instruction => obtain hr | hr | ⟨_, hr⟩ := exec_refused_cases h <;> cases hr

/-- Where the offset of `ip` in the text is the text's length, `ip` is the end address modulo 2^64. -/
theorem ip_of_textOffset_eq_length (h : s.textOffset = s.cfg.program.text.length) :
    s.ip = s.cfg.program.start + BitVec.ofNat 64 s.cfg.program.text.length := by
  rw [← h, State.textOffset, BitVec.ofNat_toNat, BitVec.setWidth_eq, BitVec.add_comm, BitVec.sub_add_cancel]

end Refusals

/-! ### Runs that end finally -/

/-- A final run went on to the state that it names, whose step reports the end of the run (R219 b). -/
theorem run_final {k : Nat} {s t : State} (h : run k s = .final t) :
    ∃ j, j < k ∧ run j s = .running t ∧ step t = .refused .endOfRun := by
  induction k generalizing s with
  | zero => cases h
  | succ k ih =>
    unfold run at h
    split at h
    · next s' hstep =>
      obtain ⟨j, hj, hrun, hend⟩ := ih h
      exact ⟨j + 1, Nat.succ_lt_succ hj, by rw [run, hstep]; exact hrun, hend⟩
    · cases h
    · next r hstep =>
      split_ifs at h with hr
      cases h
      exact ⟨0, Nat.succ_pos k, rfl, hr ▸ hstep⟩

end Sys2Proof.Laws
end

section
/-!
PROOF. The statement of `70_reset_and_hazards.md` about how a run ends (R219).
-/

namespace Sys2Proof.Proofs

open Sys2Proof.Machine Sys2Proof.Laws

/-- No instruction writes the configuration (R29), so a run that goes on has that of its launch state. -/
theorem run_running_cfg {k : Nat} {s t : State} (h : run k s = .running t) : t.cfg = s.cfg := by
  induction k generalizing s with
  | zero =>
    cases h
    rfl
  | succ k ih =>
    unfold run at h
    split at h
    · next u hstep =>
      obtain ⟨-, -, hcfg, -⟩ := stepFrame s u hstep
      exact (ih h).trans hcfg
    · cases h
    · split_ifs at h

/-- Settles O19: the run went on to the final state, where only the fetch can have reported the end. -/
theorem finalStateIsAtEnd : Obligations.FinalStateIsAtEnd := by
  intro s t k h
  obtain ⟨j, -, hrun, hend⟩ := run_final h
  obtain ⟨-, -, hoffset⟩ := step_endOfRun_iff.1 hend
  exact ⟨ip_of_textOffset_eq_length hoffset, run_running_cfg hrun, hend⟩

end Sys2Proof.Proofs
end
